-- ==== Sys2Proof/Word.lean ====
section
/-! DEFINITION. The word types of the block: a stimulus word of 12 bits (30_encoding.md R70) and the
data byte (00_scope.md R10, 20_memory.md R58). -/

namespace Sys2Proof

/-- A stimulus word: OP in bits 11:8, ARG in bits 7:0 (30_encoding.md R70). -/
abbrev Word := BitVec 12

/-- A data byte, bit 0 the least significant (00_scope.md R10, R11). -/
abbrev Byte := BitVec 8

end Sys2Proof
end

