-- ==== Sys2Proof/Config.lean ====
section
/-! DEFINITION. What an implementation fixes before reset (00_scope.md R9) and the one free value.
The parameters travel in `State.params`, so that every claim holds for every choice of them. -/

namespace Sys2Proof

/-- The implementation parameters, fixed before reset and never changed (00_scope.md R9,
70_reset_and_hazards.md R233). Their legal values are `Params.wellFormed`. -/
structure Params where
  /-- `CAP`, the number of byte slots of the receive buffer (00_scope.md R9). -/
  cap : Nat
  /-- `CNT_W`, the width in bits of BARK and IDLECNT (00_scope.md R9). -/
  cntW : Nat
  /-- `BARK_RTS`, the bark load of the handshake tick (00_scope.md R9, 41_timer_controller.md R133). -/
  barkRts : Nat
  /-- `BARK_BIT`, the bark load of every watched edge (00_scope.md R9, 10_state.md R28). -/
  barkBit : Nat
  /-- `IDLE_WAIT`, the idle-wait load of the acknowledgement edge (00_scope.md R9, 10_state.md R29). -/
  idleWait : Nat
  /-- `T_HANDSHAKE`, informative: no rule depends on it (00_scope.md R9, 70_reset_and_hazards.md R247). -/
  tHandshake : Nat
  /-- `T_WATCHDOG`, informative: no rule depends on it (00_scope.md R9, 70_reset_and_hazards.md R247). -/
  tWatchdog : Nat
  /-- `T_RECOVERY`, informative: no rule depends on it (00_scope.md R9, 70_reset_and_hazards.md R247). -/
  tRecovery : Nat
  /-- `HOST_PORT_BASE`, the placement of the stimulus port, read by no rule (20_memory.md R61). -/
  hostPortBase : Nat
deriving DecidableEq, Repr

/-- `IDX_W = ceil(log2(CAP))`, the width of HEAD and TAIL, for `CAP >= 2` (00_scope.md R9). -/
def Params.idxW (p : Params) : Nat := Nat.log2 (p.cap - 1) + 1

/-- The example parameters of the test vectors, 92_eei_decisions.md D34.
DESIGN CHOICE (log entry 3), unsafe for claims about `State.reset` alone: the source gives no value.
The `T_*` are microseconds after 70_reset_and_hazards.md R247's figures, and no rule reads them. -/
def Params.vectors : Params where
  cap := 4
  cntW := 4
  barkRts := 3
  barkBit := 2
  idleWait := 2
  tHandshake := 100
  tWatchdog := 500
  tRecovery := 1000
  hostPortBase := 0

/-- The free value: what slot `i` of RXBUF holds from power-on until it is first written
(10_state.md R20 and R35: "The slot contents after reset are unspecified"; 93_implementation_defined.md U2:
any value). It has no body, so no proof can know it (log entry 4). -/
opaque Config.rxbufPowerOn : Nat → Byte

end Sys2Proof
end

