-- ==== Sys2Proof/Syntax.lean ====
section
/-! DEFINITION. The stimuli of the block, one constructor per row of opcode_table.json
(30_encoding.md R72). The operand types carry their widths (30_encoding.md R73), so every term is well formed. -/

namespace Sys2Proof

/-- A stimulus: a host command, a clock-edge event or a timer-tick event (00_scope.md R13, 30_encoding.md R72). -/
inductive Instr where
  /-- INIT, `init()` (42_host_api.md R160). -/
  | init
  /-- RXOFF, `enable_reception(false)` (42_host_api.md R162). -/
  | rxoff
  /-- RXON, `enable_reception(true)` (42_host_api.md R161). -/
  | rxon
  /-- BUSY, `busy()` (42_host_api.md R165). -/
  | busy
  /-- SEND b, `send_byte(b)` (42_host_api.md R166). -/
  | send (b : Byte)
  /-- AVAIL, `available()` (42_host_api.md R168). -/
  | avail
  /-- GETB, `getbyte()` (42_host_api.md R169). -/
  | getb
  /-- EDGE d, a falling clock edge with data sample d (40_edge_engine.md R100). -/
  | edge (d : Bool)
  /-- TICK c, d, a timer tick with clock sample c and data sample d (41_timer_controller.md R130). -/
  | tick (c d : Bool)
deriving DecidableEq, Repr

end Sys2Proof
end

