-- ==== Sys2Proof/WellFormed.lean ====
section
/-! DEFINITION. What is well formed: legal parameters (00_scope.md R9) and legal stimulus words, said by the
match/mask pairs of 30_encoding.md R72, independently of the decoder. A term of `Instr` needs no check of
its own: its operand types are exactly the operands of 30_encoding.md R73. -/

namespace Sys2Proof

/-- A counter load value: at least 1 and within the counter's width (00_scope.md R9). -/
def Params.loadWellFormed (cntW v : Nat) : Bool := decide (1 ≤ v ∧ v ≤ 2 ^ cntW - 1)

/-- The legal values of the parameters (00_scope.md R9). -/
def Params.wellFormed (p : Params) : Bool :=
  decide (2 ≤ p.cap) && decide (1 ≤ p.cntW) && Params.loadWellFormed p.cntW p.barkRts &&
    Params.loadWellFormed p.cntW p.barkBit && Params.loadWellFormed p.cntW p.idleWait

/-- A row of the opcode map: mnemonic, match and mask (30_encoding.md R72). -/
structure OpcodeRow where
  mnemonic : String
  pattern : Word
  mask : Word
deriving DecidableEq, Repr

/-- The match/mask pairs of 30_encoding.md R72 (opcode_table.json). -/
def opcodeRows : List OpcodeRow :=
  [ ⟨"INIT", 0x100#12, 0xFFF#12⟩,
    ⟨"RXOFF", 0x200#12, 0xFFF#12⟩,
    ⟨"RXON", 0x201#12, 0xFFF#12⟩,
    ⟨"BUSY", 0x300#12, 0xFFF#12⟩,
    ⟨"SEND", 0x400#12, 0xF00#12⟩,
    ⟨"AVAIL", 0x500#12, 0xFFF#12⟩,
    ⟨"GETB", 0x600#12, 0xFFF#12⟩,
    ⟨"EDGE", 0x800#12, 0xFFE#12⟩,
    ⟨"TICK", 0x900#12, 0xFFC#12⟩ ]

/-- The row's pattern covers the word. -/
def OpcodeRow.covers (r : OpcodeRow) (w : Word) : Bool := w &&& r.mask == r.pattern

/-- A word that spells an operation: no reserved OP, no reserved ARG bit (30_encoding.md R76, R77). -/
def wordWellFormed (w : Word) : Bool := opcodeRows.any (·.covers w)

/-- The row an instruction belongs to, by its mnemonic (30_encoding.md R72). -/
def Instr.mnemonic : Instr → String
  | .init => "INIT"
  | .rxoff => "RXOFF"
  | .rxon => "RXON"
  | .busy => "BUSY"
  | .send _ => "SEND"
  | .avail => "AVAIL"
  | .getb => "GETB"
  | .edge _ => "EDGE"
  | .tick _ _ => "TICK"

end Sys2Proof
end

