-- ==== Sys2Proof/Decode.lean ====
section
/-! DEFINITION. The decoder, total on 12-bit words and rejecting by name (30_encoding.md R70, R76 to R78), and the
encoder, written from the same table (30_encoding.md R72, R73). -/

namespace Sys2Proof

/-- Why a word spells no operation (30_encoding.md R76, R77). -/
inductive DecodeError where
  /-- A reserved OP value (30_encoding.md R76). -/
  | reservedOp
  /-- A non-zero reserved ARG bit (30_encoding.md R77). -/
  | reservedArg
deriving DecidableEq, Repr

/-- The field OP, bits 11:8 (30_encoding.md R70). -/
def opField (w : Word) : BitVec 4 := w.extractLsb' 8 4

/-- The field ARG, bits 7:0 (30_encoding.md R70). -/
def argField (w : Word) : Byte := w.extractLsb' 0 8

/-- The decoder, case for case the pseudocode of 30_encoding.md R78; operands by R73. -/
def decode (w : Word) : Except DecodeError Instr :=
  let arg := argField w
  match (opField w).toNat with
  | 0x1 => if arg = 0 then .ok .init else .error .reservedArg
  | 0x2 =>
    if arg.extractLsb' 1 7 = 0 then
      (if arg.getLsbD 0 then .ok .rxon else .ok .rxoff)
    else .error .reservedArg
  | 0x3 => if arg = 0 then .ok .busy else .error .reservedArg
  | 0x4 => .ok (.send arg)
  | 0x5 => if arg = 0 then .ok .avail else .error .reservedArg
  | 0x6 => if arg = 0 then .ok .getb else .error .reservedArg
  | 0x8 => if arg.extractLsb' 1 7 = 0 then .ok (.edge (arg.getLsbD 0)) else .error .reservedArg
  | 0x9 =>
    if arg.extractLsb' 2 6 = 0 then .ok (.tick (arg.getLsbD 1) (arg.getLsbD 0))
    else .error .reservedArg
  | _ => .error .reservedOp

/-- The word of a stimulus, `{OP, ARG}` by the rows of 30_encoding.md R72 and the operands of R73. -/
def encode : Instr → Word
  | .init => 0x1#4 ++ 0x00#8
  | .rxoff => 0x2#4 ++ 0x00#8
  | .rxon => 0x2#4 ++ 0x01#8
  | .busy => 0x3#4 ++ 0x00#8
  | .send b => 0x4#4 ++ b
  | .avail => 0x5#4 ++ 0x00#8
  | .getb => 0x6#4 ++ 0x00#8
  | .edge d => 0x8#4 ++ (0#7 ++ BitVec.ofBool d)
  | .tick c d => 0x9#4 ++ (0#6 ++ (BitVec.ofBool c ++ BitVec.ofBool d))

/-- The stimulus word among `nbits` bits numbered as opcode_table.json numbers them. A stimulus is exactly
12 bits (30_encoding.md R70), so a number of more than 12 bits is no stimulus word. -/
def tableWord (nbits w : Nat) : Option Word :=
  let v := w % 2 ^ nbits
  if v < 2 ^ 12 then some (BitVec.ofNat 12 v) else none

/-- The instruction the decoder reads from a table row's word, `none` where it refuses. -/
def decodeTableWord (nbits w : Nat) : Option Instr :=
  match tableWord nbits w with
  | some v =>
    match decode v with
    | .ok i => some i
    | .error _ => none
  | none => none

end Sys2Proof
end

