-- ==== Sys2Proof/Machine/State.lean ====
section
/-! DEFINITION. The state of the block as plain data: the registers of 10_state.md R20 under their own names, and
the model's own fields `params`, `result` and `agenda` (log entries 2, 3, 5). -/

namespace Sys2Proof.Machine

/-- The eleven protocol states of 10_state.md R21, in the source's listing order. -/
inductive ProtocolState where
  | idle
  | receivingData
  | receivingParity
  | receivingStop
  | requestingSend
  | transmittingData
  | transmittingParity
  | transmittingStop
  | awaitingAck
  | awaitingIdle
  | error
deriving DecidableEq, Repr

/-- One line of the line controller (10_state.md R20, R33): `dir` is L_DIR (true = 1, output, driven),
`lvl` is L_LVL, the level driven while `dir` is true and kept by a release. -/
structure Line where
  dir : Bool
  lvl : Bool
deriving DecidableEq, Repr

/-- The fault kinds FAULT records (60_exceptions.md R210). -/
inductive FaultKind where
  /-- F_EMPTY_POP: GETB with HEAD = TAIL (20_memory.md R54). -/
  | emptyPop
  /-- F_BAD_STATE: a stimulus finds STATE in 11..15, or BITCNT outside 1..8 in a data state (10_state.md R21). -/
  | badState
  /-- REFUSED(RESERVED_OP): a reserved OP (30_encoding.md R76). -/
  | reservedOp
  /-- REFUSED(RESERVED_ARG): a non-zero reserved ARG bit (30_encoding.md R77). -/
  | reservedArg
  /-- REFUSED(TICK_DISARMED): TICK with TIMER_EN = 0 (30_encoding.md R75). -/
  | tickDisarmed
  /-- REFUSED(HOST_BLOCKED): a host command with HOST_PHASE != READY (30_encoding.md R75). -/
  | hostBlocked
deriving DecidableEq, Repr

/-- What the last stimulus returned to the host (30_encoding.md R74). The model's own output field (log entry 5). -/
inductive Result where
  /-- The stimulus returned nothing. -/
  | nothing
  /-- The 1-bit result of BUSY or AVAIL. -/
  | bit (b : Bool)
  /-- The 8-bit result of GETB. -/
  | byte (b : Byte)
deriving DecidableEq, Repr

/-- One turn of an agent: a stimulus word presented at the port, or the host's internal step
(00_scope.md R13, R15; 30_encoding.md R70, R79). -/
inductive Turn where
  /-- The host, the bus or the timer presents this word. -/
  | stimulus (w : Word)
  /-- The host takes HSTART or HRET if its guard holds, and else holds (42_host_api.md R167). -/
  | hostStep
deriving DecidableEq, Repr

/-- The receive buffer's storage: (slot, byte) pairs, slots strictly rising. A slot nothing has written is not
listed: its content is unspecified (10_state.md R20, R35). -/
abbrev Memory := List Host.Cell

/-- The one canonical form of a memory: its slots strictly rise. -/
abbrev Memory.wf (m : Memory) : Prop := m.Pairwise (fun a b => a.1 < b.1)

/-- The state of the block (10_state.md R20). The parameters stand in it because every operation reads them;
no rule writes them (70_reset_and_hazards.md R233). -/
structure State where
  /-- The model's own: the parameters of 00_scope.md R9. -/
  params : Params
  /-- STATE, 4 bits (10_state.md R21). -/
  state : BitVec 4
  /-- SHIFT, 8 bits (10_state.md R23). -/
  shift : BitVec 8
  /-- BITCNT, 4 bits (10_state.md R24). -/
  bitcnt : BitVec 4
  /-- PARITY, 1 bit (10_state.md R25). -/
  parity : Bool
  /-- PENDING, 8 bits (10_state.md R27). -/
  pending : BitVec 8
  /-- BARK, an unsigned value of CNT_W bits (10_state.md R28). -/
  bark : Nat
  /-- IDLECNT, an unsigned value of CNT_W bits (10_state.md R29). -/
  idlecnt : Nat
  /-- EDGE_EN, 1 bit (10_state.md R30). -/
  edgeEn : Bool
  /-- TIMER_EN, 1 bit (10_state.md R31). -/
  timerEn : Bool
  /-- TIMER_PER, 2 bits (10_state.md R31). -/
  timerPer : BitVec 2
  /-- REC_PHASE, 1 bit (10_state.md R32). -/
  recPhase : Bool
  /-- CLK_DIR and CLK_LVL (10_state.md R33). -/
  clk : Line
  /-- DAT_DIR and DAT_LVL (10_state.md R33). -/
  dat : Line
  /-- RXBUF, CAP byte slots (10_state.md R35, 20_memory.md R50). -/
  rxbuf : Memory
  /-- HEAD, the write index, 0..CAP-1 (10_state.md R35). -/
  head : Nat
  /-- TAIL, the read index, 0..CAP-1 (10_state.md R35). -/
  tail : Nat
  /-- HOST_PHASE, 2 bits (10_state.md R36). -/
  hostPhase : BitVec 2
  /-- HOST_BYTE, 8 bits (10_state.md R36). -/
  hostByte : BitVec 8
  /-- FAULT: none, or the kind recorded (10_state.md R37, 60_exceptions.md R210). -/
  fault : Option FaultKind
  /-- The model's own: what the last stimulus returned (30_encoding.md R74). -/
  result : Result
  /-- The model's own: the turns still to be taken, the next first (60_exceptions.md R207). -/
  agenda : List Turn
deriving DecidableEq, Repr

/-- Why a step stops with a fault: the fault class of 60_exceptions.md R210, and the model's own. All are safe:
the machine stops and no value is invented. -/
inductive Fault where
  /-- FAULT holds F_EMPTY_POP, so there is no further step (10_state.md R37). Raised by step and by every
  meaning from a state in which GETB on an empty buffer has recorded it. Safe. -/
  | emptyPop
  /-- FAULT holds F_BAD_STATE, so there is no further step (10_state.md R37). Raised by step and by every
  meaning from a state in which a stimulus has recorded it. Safe. -/
  | badState
  /-- The model's own (log entry 7): a push or a pop at a slot outside 0..CAP-1, which does not exist
  (20_memory.md R50). Raised by EDGE and GETB, in states no run reaches. Safe. -/
  | slotOutOfRange
deriving DecidableEq, Repr

/-- Why a step is refused: the refusal class of 60_exceptions.md R210. All are safe: the machine stops. -/
inductive Refusal where
  /-- An instruction without a meaning in the model, by its mnemonic. Raised by exec alone; no arm does. Safe. -/
  | notModelled (mnemonic : String)
  /-- FAULT holds REFUSED(RESERVED_OP), so there is no further step (30_encoding.md R80). Raised by step and by
  every meaning from such a state. Safe. -/
  | reservedOp
  /-- FAULT holds REFUSED(RESERVED_ARG), so there is no further step (30_encoding.md R80). Raised by step and by
  every meaning from such a state. Safe. -/
  | reservedArg
  /-- FAULT holds REFUSED(TICK_DISARMED), so there is no further step (30_encoding.md R80). Raised by step and by
  every meaning from such a state. Safe. -/
  | tickDisarmed
  /-- FAULT holds REFUSED(HOST_BLOCKED), so there is no further step (30_encoding.md R80). Raised by step and by
  every meaning from such a state. Safe. -/
  | hostBlocked
deriving DecidableEq, Repr

/-- What a meaning and a step answer. -/
abbrev Out := Host.Outcome State Fault Refusal

/-- The state right after power-on reset with the parameters `p`: every register at the reset value of
10_state.md R20, restated in 70_reset_and_hazards.md R230; no slot of RXBUF written; nothing on the agenda. -/
def State.powerOn (p : Params) : State where
  params := p
  state := 0
  shift := 0x00
  bitcnt := 0
  parity := false
  pending := 0x00
  bark := 0
  idlecnt := 0
  edgeEn := false
  timerEn := false
  timerPer := 0
  recPhase := false
  clk := { dir := false, lvl := true }
  dat := { dir := false, lvl := true }
  rxbuf := []
  head := 0
  tail := 0
  hostPhase := 0
  hostByte := 0x00
  fault := none
  result := .nothing
  agenda := []

/-- The machine right after reset, with the example parameters of 92_eei_decisions.md D34
(DESIGN CHOICE, log entry 3; every parameter choice is `State.powerOn`). -/
def State.reset : State := State.powerOn Params.vectors

end Sys2Proof.Machine
end

