-- ==== Sys2Proof/Machine/Operands.lean ====
section
/-! DEFINITION. Register encodings and the bit-level operand forms: the codes of STATE, TIMER_PER and HOST_PHASE,
the arrangement of SHIFT, and the reading of the line samples. -/

namespace Sys2Proof.Machine

/-- The value STATE holds for a protocol state (10_state.md R21). -/
def ProtocolState.code : ProtocolState → BitVec 4
  | .idle => 0
  | .receivingData => 1
  | .receivingParity => 2
  | .receivingStop => 3
  | .requestingSend => 4
  | .transmittingData => 5
  | .transmittingParity => 6
  | .transmittingStop => 7
  | .awaitingAck => 8
  | .awaitingIdle => 9
  | .error => 10

/-- The protocol state a value of STATE stands for, none for 11..15 (10_state.md R21). -/
def ProtocolState.ofCode (v : BitVec 4) : Option ProtocolState :=
  match v.toNat with
  | 0 => some .idle
  | 1 => some .receivingData
  | 2 => some .receivingParity
  | 3 => some .receivingStop
  | 4 => some .requestingSend
  | 5 => some .transmittingData
  | 6 => some .transmittingParity
  | 7 => some .transmittingStop
  | 8 => some .awaitingAck
  | 9 => some .awaitingIdle
  | 10 => some .error
  | _ => none

/-- The protocol state the block is in, if STATE is a legal value. -/
def State.phase (s : State) : Option ProtocolState := ProtocolState.ofCode s.state

/-- The watched set W of 10_state.md R22. -/
def ProtocolState.watched : ProtocolState → Bool
  | .receivingData => true
  | .receivingParity => true
  | .receivingStop => true
  | .transmittingData => true
  | .transmittingParity => true
  | .transmittingStop => true
  | .awaitingAck => true
  | .idle => false
  | .requestingSend => false
  | .awaitingIdle => false
  | .error => false

/-- The data states, in which BITCNT counts 8 down to 1 (10_state.md R24, 60_exceptions.md R210). -/
def ProtocolState.dataState : ProtocolState → Bool
  | .receivingData => true
  | .transmittingData => true
  | .idle => false
  | .receivingParity => false
  | .receivingStop => false
  | .requestingSend => false
  | .transmittingParity => false
  | .transmittingStop => false
  | .awaitingAck => false
  | .awaitingIdle => false
  | .error => false

/-- TIMER_PER = HANDSHAKE (10_state.md R31). -/
def perHandshake : BitVec 2 := 0

/-- TIMER_PER = WATCHDOG (10_state.md R31). -/
def perWatchdog : BitVec 2 := 1

/-- TIMER_PER = RECOVERY (10_state.md R31). -/
def perRecovery : BitVec 2 := 2

/-- HOST_PHASE = READY (10_state.md R36). -/
def hostReady : BitVec 2 := 0

/-- HOST_PHASE = WAIT_START (10_state.md R36). -/
def hostWaitStart : BitVec 2 := 1

/-- HOST_PHASE = WAIT_DONE (10_state.md R36). -/
def hostWaitDone : BitVec 2 := 2

/-- Receive: `{d, SHIFT[7:1]}`, the sample enters at bit 7 (10_state.md R23, 40_edge_engine.md R102). -/
def shiftIn (d : Bool) (v : Byte) : Byte := BitVec.ofBool d ++ v.extractLsb' 1 7

/-- Transmit: the next outgoing bit, `SHIFT[0]` (10_state.md R23, 40_edge_engine.md R106). -/
def outgoingBit (v : Byte) : Bool := v.getLsbD 0

/-- Transmit: `SHIFT >> 1`, filling bit 7 with 0 (10_state.md R23, 40_edge_engine.md R106). -/
def shiftOut (v : Byte) : Byte := v >>> 1

/-- "Both clock and data lines read high (bus idle)" (41_timer_controller.md R135). -/
def busIdle (c d : Bool) : Bool := c && d

/-- BITCNT is a count a data state may hold, 1 to 8 (40_edge_engine.md R102, R106; 60_exceptions.md R210). -/
def bitsRemain (n : BitVec 4) : Bool := decide (1 ≤ n.toNat ∧ n.toNat ≤ 8)

/-- What the block itself puts on a line: its level when driven, nothing when released, where the pull and the
device set the level (10_state.md R34). -/
def Line.driven (l : Line) : Option Bool := if l.dir then some l.lvl else none

/-- The delay TIMER_PER selects before the next tick, informative; no rule reads it (10_state.md R31). -/
def State.timerDelay (s : State) : Option Nat :=
  match s.timerPer.toNat with
  | 0 => some s.params.tHandshake
  | 1 => some s.params.tWatchdog
  | 2 => some s.params.tRecovery
  | _ => none

end Sys2Proof.Machine
end

