-- ==== Sys2Proof/Machine/Flags.lean ====
section
/-! DEFINITION. The flags: busy and available (10_state.md R40) and the parity accumulator (10_state.md R25). -/

namespace Sys2Proof.Machine

/-- The status flag busy, `STATE != Idle` (10_state.md R40, 42_host_api.md R165). -/
def busyFlag (s : State) : Bool := s.state != ProtocolState.idle.code

/-- The status flag available, `HEAD != TAIL` (10_state.md R40, 20_memory.md R52). -/
def availableFlag (s : State) : Bool := s.head != s.tail

/-- The accumulator after one more bit, `PARITY ^ b` (40_edge_engine.md R102, R103, R106). -/
def parityStep (acc b : Bool) : Bool := acc ^^ b

/-- The parity bit transmitted, `~PARITY` (40_edge_engine.md R107). -/
def parityBit (acc : Bool) : Bool := !acc

/-- The number of bytes the host can read, `(HEAD - TAIL) mod CAP` (20_memory.md R55). -/
def unreadCount (s : State) : Nat := (s.head + s.params.cap - s.tail) % s.params.cap

end Sys2Proof.Machine
end

