-- ==== Sys2Proof/Machine/Ops.lean ====
section
/-! DEFINITION. The operations the meanings share: the receive buffer's memory, the line primitives, recording a
model fault, the guards of 60_exceptions.md R208, entering Error and the recovery from it, starting a send, and taking
the next turn. -/

namespace Sys2Proof.Machine

/-! ## The receive buffer -/

/-- RXBUF[slot], none if nothing has written the slot since power-on (00_scope.md R12, 10_state.md R35). -/
def Memory.read : Memory → Nat → Option Byte
  | [], _ => none
  | (k, b) :: rest, slot => if k = slot then some b else Memory.read rest slot

/-- RXBUF[slot] <- b, keeping the slots strictly rising (00_scope.md R12). -/
def Memory.write : Memory → Nat → Byte → Memory
  | [], slot, b => [(slot, b)]
  | (k, v) :: rest, slot, b =>
    if slot < k then (slot, b) :: (k, v) :: rest
    else if slot = k then (slot, b) :: rest
    else (k, v) :: Memory.write rest slot b

/-- The byte a pop of the slot returns: the byte last written there, or the free value if nothing has written it
(20_memory.md R53, R56; 93_implementation_defined.md U2; log entry 4). -/
def slotByte (m : Memory) (slot : Nat) : Byte := (Memory.read m slot).getD (Config.rxbufPowerOn slot)

/-- The next slot index, modulo CAP (20_memory.md R51, R53). -/
def nextSlot (p : Params) (i : Nat) : Nat := (i + 1) % p.cap

/-- push(b): unconditional, never touches TAIL (20_memory.md R51). A HEAD outside 0..CAP-1 names no slot
(20_memory.md R50; log entry 7). -/
def pushByte (b : Byte) (s : State) : Out :=
  if s.head < s.params.cap then
    .next { s with rxbuf := Memory.write s.rxbuf s.head b, head := nextSlot s.params s.head }
  else .fault .slotOutOfRange

/-- pop() of a buffer that is not empty: the result, and TAIL advanced; never touches HEAD (20_memory.md R53).
A TAIL outside 0..CAP-1 names no slot (20_memory.md R50; log entry 7). -/
def popByte (s : State) : Out :=
  if s.tail < s.params.cap then
    .next { s with result := .byte (slotByte s.rxbuf s.tail), tail := nextSlot s.params s.tail }
  else .fault .slotOutOfRange

/-! ## The line primitives of 10_state.md R33 -/

/-- drive(L, v): output at level v. -/
def Line.drive (v : Bool) (_ : Line) : Line := { dir := true, lvl := v }

/-- release(L): input, the level register keeps its value. -/
def Line.release (l : Line) : Line := { l with dir := false }

/-! ## Model faults, refusals and the guards -/

/-- The stop a recorded kind stands for, by its class in 60_exceptions.md R210. -/
def FaultKind.stop : FaultKind → Out
  | .emptyPop => .fault .emptyPop
  | .badState => .fault .badState
  | .reservedOp => .refused .reservedOp
  | .reservedArg => .refused .reservedArg
  | .tickDisarmed => .refused .tickDisarmed
  | .hostBlocked => .refused .hostBlocked

/-- `raise Fault(k)` and `refuse(k)`: FAULT records the kind and no other state changes (30_encoding.md R80,
60_exceptions.md R210; log entry 1). -/
def record (k : FaultKind) (s : State) : State := { s with fault := some k }

/-- Check (1) of 60_exceptions.md R208: "A state with FAULT != none has no further steps" (10_state.md R37). -/
def whenLive (s : State) (body : Out) : Out :=
  match s.fault with
  | none => body
  | some k => k.stop

/-- The protocol state, none where a stimulus finds a code no run reaches: STATE in 11..15, or BITCNT outside 1..8 in a
data state (10_state.md R21, 60_exceptions.md R210). -/
def State.soundPhase (s : State) : Option ProtocolState :=
  match s.phase with
  | none => none
  | some p => if p.dataState && !bitsRemain s.bitcnt then none else some p

/-- Check (4) of 60_exceptions.md R208, for every stimulus: raise Fault(F_BAD_STATE) on a code no run reaches, before the
arm's own behaviour (log entry 12). It is the `raise` of 40_edge_engine.md R100, R102 and R106 and of
41_timer_controller.md R130. -/
def whenSound (s : State) (body : ProtocolState → Out) : Out :=
  match s.soundPhase with
  | none => .next (record .badState s)
  | some p => body p

/-- The checks before a host command's own behaviour (60_exceptions.md R208): its admissibility (30_encoding.md R75),
refuse(HOST_BLOCKED) while HOST_PHASE != READY, then F_BAD_STATE. -/
def hostCommand (s : State) (body : Out) : Out :=
  whenLive s (if s.hostPhase = hostReady then whenSound s (fun _ => body) else .next (record .hostBlocked s))

/-- The kind a refused word records (30_encoding.md R76, R77). -/
def decodeFault : DecodeError → FaultKind
  | .reservedOp => .reservedOp
  | .reservedArg => .reservedArg

/-! ## Protocol errors: entry, recovery request, recovery (60_exceptions.md R202, R203) -/

/-- Taking a protocol error: STATE <- Error and nothing else (60_exceptions.md R202). -/
def enterError (s : State) : State := { s with state := ProtocolState.error.code }

/-- The recovery request after every edge (40_edge_engine.md R112). -/
def requestRecovery (s : State) : State :=
  if s.state = ProtocolState.error.code ∧ s.recPhase = false then
    { s with timerEn := true, timerPer := perWatchdog }
  else s

/-- Recovery start, the first tick in Error (41_timer_controller.md R136). -/
def startRecovery (s : State) : State :=
  { s with
    edgeEn := false
    clk := s.clk.drive false
    dat := s.dat.drive false
    recPhase := true
    timerEn := true
    timerPer := perRecovery }

/-- Recovery end, the return from Error (41_timer_controller.md R137). -/
def endRecovery (s : State) : State :=
  { s with
    clk := s.clk.release
    dat := s.dat.release
    shift := 0x00
    bitcnt := 0
    parity := false
    state := ProtocolState.idle.code
    edgeEn := true
    recPhase := false
    timerEn := false }

/-! ## Reception and sending -/

/-- Disabling reception, as RXOFF does it (42_host_api.md R162, R166). -/
def disableReception (s : State) : State :=
  { s with edgeEn := false, clk := s.clk.drive false, dat := s.dat.release }

/-- `start(v)` of 42_host_api.md R166: the first half of the request-to-send handshake. -/
def startSend (v : Byte) (s : State) : State :=
  { disableReception s with
    pending := v
    state := ProtocolState.requestingSend.code
    timerEn := true
    timerPer := perHandshake }

/-! ## Turns -/

/-- The state in which the stimulus that stands next is run: the turn is taken, and the stimulus has returned
nothing yet (30_encoding.md R74; log entries 2 and 5). -/
def takeStimulus (s : State) (rest : List Turn) : State := { s with agenda := rest, result := .nothing }

/-- The state in which the host's internal step that stands next is run (30_encoding.md R79). -/
def takeHostStep (s : State) (rest : List Turn) : State := { s with agenda := rest }

/-- The word placed as the next turn; a number that is no 12-bit word is no stimulus, and nothing is placed
(30_encoding.md R70). -/
def placeWord (s : State) (nbits w : Nat) : State :=
  match tableWord nbits w with
  | some v => { s with agenda := .stimulus v :: s.agenda }
  | none => s

end Sys2Proof.Machine
end

