-- ==== Sys2Proof/Machine/EdgeEngine.lean ====
section
/-! DEFINITION. The meaning of EDGE: the bit-level framing engine, one arm per protocol state (40_edge_engine.md). -/

namespace Sys2Proof.Machine

/-- EDGE d in Idle, the start bit (40_edge_engine.md R101). -/
def edgeIdle (d : Bool) (s : State) : Out :=
  if d = false then
    .next { s with
      state := ProtocolState.receivingData.code
      shift := 0x00
      bitcnt := 8
      parity := false
      bark := s.params.barkBit
      timerEn := true
      timerPer := perWatchdog }
  else .next (enterError s)

/-- EDGE d in ReceivingData, a data bit (40_edge_engine.md R102); `whenSound` has raised F_BAD_STATE for a BITCNT
outside 1 to 8. -/
def edgeReceivingData (d : Bool) (s : State) : Out :=
  .next { s with
    shift := shiftIn d s.shift
    parity := parityStep s.parity d
    bitcnt := s.bitcnt - 1
    bark := s.params.barkBit
    state := if s.bitcnt - 1 = 0 then ProtocolState.receivingParity.code else s.state }

/-- EDGE d in ReceivingParity, the parity bit (40_edge_engine.md R103). -/
def edgeReceivingParity (d : Bool) (s : State) : Out :=
  let acc := parityStep s.parity d
  if acc = false then .next (enterError { s with parity := acc })
  else
    .next { s with
      parity := acc
      state := ProtocolState.receivingStop.code
      bark := s.params.barkBit }

/-- EDGE d in ReceivingStop, the stop bit (40_edge_engine.md R104). -/
def edgeReceivingStop (d : Bool) (s : State) : Out :=
  if d then pushByte s.shift { s with state := ProtocolState.idle.code, timerEn := false }
  else .next (enterError s)

/-- EDGE d in RequestingSend: ignored (40_edge_engine.md R105). -/
def edgeRequestingSend (_ : Bool) (s : State) : Out := .next s

/-- EDGE d in TransmittingData, a data bit out; the sample is ignored (40_edge_engine.md R106); `whenSound` has raised
F_BAD_STATE for a BITCNT outside 1 to 8. -/
def edgeTransmittingData (_ : Bool) (s : State) : Out :=
  let b := outgoingBit s.shift
  .next { s with
    dat := s.dat.drive b
    parity := parityStep s.parity b
    shift := shiftOut s.shift
    bitcnt := s.bitcnt - 1
    bark := s.params.barkBit
    state := if s.bitcnt - 1 = 0 then ProtocolState.transmittingParity.code else s.state }

/-- EDGE d in TransmittingParity, the parity bit out (40_edge_engine.md R107). -/
def edgeTransmittingParity (_ : Bool) (s : State) : Out :=
  .next { s with
    dat := s.dat.drive (parityBit s.parity)
    state := ProtocolState.transmittingStop.code
    bark := s.params.barkBit }

/-- EDGE d in TransmittingStop, the stop bit out: data driven high, then both lines released
(40_edge_engine.md R108). -/
def edgeTransmittingStop (_ : Bool) (s : State) : Out :=
  .next { s with
    dat := (s.dat.drive true).release
    clk := s.clk.release
    state := ProtocolState.awaitingAck.code
    bark := s.params.barkBit }

/-- EDGE d in AwaitingAck, the acknowledgement (40_edge_engine.md R109). -/
def edgeAwaitingAck (d : Bool) (s : State) : Out :=
  if d = false then
    .next { s with idlecnt := s.params.idleWait, state := ProtocolState.awaitingIdle.code }
  else .next (enterError s)

/-- EDGE d in AwaitingIdle: no action (40_edge_engine.md R110). -/
def edgeAwaitingIdle (_ : Bool) (s : State) : Out := .next s

/-- EDGE d in Error: no change of its own (40_edge_engine.md R111). -/
def edgeError (_ : Bool) (s : State) : Out := .next s

/-- The arm of 40_edge_engine.md R100's dispatch. -/
def edgeArm (d : Bool) (s : State) (p : ProtocolState) : Out :=
  match p with
  | .idle => edgeIdle d s
  | .receivingData => edgeReceivingData d s
  | .receivingParity => edgeReceivingParity d s
  | .receivingStop => edgeReceivingStop d s
  | .requestingSend => edgeRequestingSend d s
  | .transmittingData => edgeTransmittingData d s
  | .transmittingParity => edgeTransmittingParity d s
  | .transmittingStop => edgeTransmittingStop d s
  | .awaitingAck => edgeAwaitingAck d s
  | .awaitingIdle => edgeAwaitingIdle d s
  | .error => edgeError d s

/-- "then R112": the recovery request on the state the arm left (40_edge_engine.md R100, R112). -/
def afterEdge (o : Out) : Out :=
  match o with
  | .next t => .next (requestRecovery t)
  | .fault r => .fault r
  | .refused r => .refused r

/-- EDGE d (40_edge_engine.md R100): an edge with EDGE_EN = 0 is lost, whatever STATE holds. -/
def execEdge (d : Bool) (s : State) : Out :=
  whenLive s (if s.edgeEn then whenSound s (fun p => afterEdge (edgeArm d s p)) else .next s)

end Sys2Proof.Machine
end

