-- ==== Sys2Proof/Machine/HostApi.lean ====
section
/-! DEFINITION. The meanings of the host commands and the host's internal steps (42_host_api.md). -/

namespace Sys2Proof.Machine

/-- INIT (42_host_api.md R160). -/
def execInit (s : State) : Out :=
  hostCommand s (.next { s with
    state := ProtocolState.idle.code
    head := 0
    tail := 0
    edgeEn := false
    timerEn := false
    recPhase := false
    clk := s.clk.release
    dat := s.dat.release })

/-- RXON (42_host_api.md R161). -/
def execRxon (s : State) : Out :=
  hostCommand s (.next { s with
    state := ProtocolState.idle.code
    clk := s.clk.release
    dat := s.dat.release
    edgeEn := true
    recPhase := false })

/-- RXOFF (42_host_api.md R162). -/
def execRxoff (s : State) : Out := hostCommand s (.next (disableReception s))

/-- BUSY (42_host_api.md R165). -/
def execBusy (s : State) : Out := hostCommand s (.next { s with result := .bit (busyFlag s) })

/-- AVAIL (42_host_api.md R168). -/
def execAvail (s : State) : Out := hostCommand s (.next { s with result := .bit (availableFlag s) })

/-- GETB (42_host_api.md R169, 20_memory.md R53, R54). -/
def execGetb (s : State) : Out :=
  hostCommand s (if availableFlag s then popByte s else .next (record .emptyPop s))

/-- SEND b (42_host_api.md R166): the check for Idle and the start are one step, else the host waits. -/
def execSend (b : Byte) (s : State) : Out :=
  hostCommand s (.next (
    if s.state = ProtocolState.idle.code then { startSend b s with hostPhase := hostWaitDone }
    else { s with hostByte := b, hostPhase := hostWaitStart }))

/-- The guard of HSTART but for FAULT (42_host_api.md R167). -/
def hstartEnabled (s : State) : Bool :=
  s.hostPhase == hostWaitStart && s.state == ProtocolState.idle.code

/-- The guard of HRET but for FAULT (42_host_api.md R167). -/
def hretEnabled (s : State) : Bool :=
  s.hostPhase == hostWaitDone && s.state == ProtocolState.idle.code

/-- The host's internal step: HSTART or HRET where its guard holds; while neither does "the host is held", its
state unchanged (42_host_api.md R167; log entry 8). -/
def hostInternal (s : State) : State :=
  if hstartEnabled s then { startSend s.hostByte s with hostPhase := hostWaitDone }
  else if hretEnabled s then { s with hostPhase := hostReady }
  else s

end Sys2Proof.Machine
end

