-- ==== Sys2Proof/Machine/TimerController.lean ====
section
/-! DEFINITION. The meaning of TICK: the timeout and recovery controller (41_timer_controller.md). -/

namespace Sys2Proof.Machine

/-- TICK in Idle, a stale tick (41_timer_controller.md R131). -/
def tickIdle (s : State) : State := { s with timerEn := false, recPhase := false }

/-- TICK in RequestingSend, the completion of the handshake (41_timer_controller.md R133). -/
def tickRequestingSend (s : State) : State :=
  { s with
    bark := s.params.barkRts
    dat := s.dat.drive false
    clk := s.clk.release
    edgeEn := true
    shift := s.pending
    bitcnt := 8
    parity := false
    state := ProtocolState.transmittingData.code
    timerEn := true
    timerPer := perWatchdog }

/-- TICK in a watched state, the bark countdown (41_timer_controller.md R134). -/
def tickWatched (s : State) : State :=
  if s.bark = 0 then enterError s
  else if s.bark - 1 = 0 then enterError { s with bark := s.bark - 1 }
  else { s with bark := s.bark - 1 }

/-- TICK c, d in AwaitingIdle, the end of transmission: the lines first, then the counter
(41_timer_controller.md R135). -/
def tickAwaitingIdle (c d : Bool) (s : State) : State :=
  if busIdle c d then { s with timerEn := false, state := ProtocolState.idle.code }
  else if s.idlecnt = 0 then enterError s
  else if s.idlecnt - 1 = 0 then enterError { s with idlecnt := s.idlecnt - 1 }
  else { s with idlecnt := s.idlecnt - 1 }

/-- TICK in Error: recovery start, then recovery end (41_timer_controller.md R130, R136, R137). -/
def tickError (s : State) : State := if s.recPhase = false then startRecovery s else endRecovery s

/-- The arm of 41_timer_controller.md R130's dispatch. -/
def tickArm (c d : Bool) (s : State) (p : ProtocolState) : State :=
  match p with
  | .idle => tickIdle s
  | .requestingSend => tickRequestingSend s
  | .awaitingIdle => tickAwaitingIdle c d s
  | .error => tickError s
  | .receivingData => tickWatched s
  | .receivingParity => tickWatched s
  | .receivingStop => tickWatched s
  | .transmittingData => tickWatched s
  | .transmittingParity => tickWatched s
  | .transmittingStop => tickWatched s
  | .awaitingAck => tickWatched s

/-- TICK c, d (41_timer_controller.md R130): a disarmed timer does not tick. -/
def execTick (c d : Bool) (s : State) : Out :=
  whenLive s (
    if s.timerEn then whenSound s (fun p => .next (tickArm c d s p)) else .next (record .tickDisarmed s))

end Sys2Proof.Machine
end

