-- ==== Sys2Proof/Machine/Dispatch.lean ====
section
/-! DEFINITION. One arm per stimulus: its meaning (30_encoding.md R72). -/

namespace Sys2Proof.Machine

def exec (i : Instr) (s : State) : Host.Outcome State Fault Refusal :=
  match i with
  | .init => Sys2Proof.Machine.execInit s
  | .rxoff => Sys2Proof.Machine.execRxoff s
  | .rxon => Sys2Proof.Machine.execRxon s
  | .busy => Sys2Proof.Machine.execBusy s
  | .send b => Sys2Proof.Machine.execSend b s
  | .avail => Sys2Proof.Machine.execAvail s
  | .getb => Sys2Proof.Machine.execGetb s
  | .edge d => Sys2Proof.Machine.execEdge d s
  | .tick c d => Sys2Proof.Machine.execTick c d s

end Sys2Proof.Machine
end

