-- ==== Sys2Proof/Machine/Step.lean ====
section
/-! DEFINITION. One step: the next turn of the agenda is taken (00_scope.md R13, R15; 60_exceptions.md R207, R208). -/

namespace Sys2Proof.Machine

/-- One step. A state with FAULT set has none (60_exceptions.md R208 (1)); a stimulus word is decoded and run, or
refused by name (R208 (2)); the host's internal step is taken or held (42_host_api.md R167); with no turn left the
block waits (70_reset_and_hazards.md R231). -/
def step (s : State) : Host.Outcome State Fault Refusal :=
  whenLive s (
    match s.agenda with
    | [] => .next s
    | .hostStep :: rest => .next (hostInternal (takeHostStep s rest))
    | .stimulus w :: rest =>
      match decode w with
      | .ok i => exec i (takeStimulus s rest)
      | .error e => .next (record (decodeFault e) (takeStimulus s rest)))

/-- `s` with the word of a table row as its next turn, so that the next step runs it (log entry 2). -/
def State.withFetchWord (s : State) (nbits w : Nat) : State := placeWord s nbits w

end Sys2Proof.Machine
end

