-- ==== Sys2Proof/Machine/Events.lean ====
section
/-! DEFINITION. Who presents a stimulus (30_encoding.md R75), which protocol error it detects (60_exceptions.md R200),
and the running of a sequence of stimuli. Nothing here is stored in the block. -/

namespace Sys2Proof.Machine

/-- The agents of 00_scope.md R15. -/
inductive Agent where
  | host
  | bus
  | timer
deriving DecidableEq, Repr

/-- The source of each stimulus (30_encoding.md R75). -/
def agentOf : Instr → Agent
  | .init => .host
  | .rxoff => .host
  | .rxon => .host
  | .busy => .host
  | .send _ => .host
  | .avail => .host
  | .getb => .host
  | .edge _ => .bus
  | .tick _ _ => .timer

/-- The stimulus may be presented, and is no lost edge (30_encoding.md R75, 60_exceptions.md R208 (3)). -/
abbrev Admissible (i : Instr) (s : State) : Prop :=
  (agentOf i = .host → s.hostPhase = hostReady) ∧ (agentOf i = .bus → s.edgeEn = true) ∧
    (agentOf i = .timer → s.timerEn = true)

/-- The error kinds of 60_exceptions.md R200; "the codes are for documentation" and stored nowhere (R201). -/
inductive ErrorKind where
  /-- E_START: data sample 1 at an edge in Idle. -/
  | start
  /-- E_PARITY: the accumulated parity with the parity bit is 0. -/
  | parity
  /-- E_STOP: data sample 0 at an edge in ReceivingStop. -/
  | stop
  /-- E_NOACK: data sample 1 at an edge in AwaitingAck. -/
  | noAck
  /-- E_BARK: BARK reaches 0 in a watched state. -/
  | bark
  /-- E_IDLE: IDLECNT reaches 0 in AwaitingIdle. -/
  | idle
deriving DecidableEq, Repr

/-- The documentation code of an error kind (60_exceptions.md R200). -/
def ErrorKind.code : ErrorKind → Nat
  | .start => 1
  | .parity => 2
  | .stop => 3
  | .noAck => 4
  | .bark => 5
  | .idle => 6

/-- The error kind an accepted edge detects in a protocol state, by 60_exceptions.md R200's causes. -/
def edgeError? (p : ProtocolState) (d : Bool) (s : State) : Option ErrorKind :=
  match p, d with
  | .idle, true => some .start
  | .receivingParity, d => if parityBit s.parity = d then none else some .parity
  | .receivingStop, false => some .stop
  | .awaitingAck, true => some .noAck
  | _, _ => none

/-- The error kind a tick of the armed timer detects in a protocol state, by 60_exceptions.md R200's causes. A count
already at 0 counts as reaching it (41_timer_controller.md R134, R135). -/
def tickError? (p : ProtocolState) (c d : Bool) (s : State) : Option ErrorKind :=
  if p.watched && decide (s.bark ≤ 1) then some .bark
  else if p == .awaitingIdle && !(c && d) && decide (s.idlecnt ≤ 1) then some .idle
  else none

/-- The error kind a stimulus detects in a state (60_exceptions.md R200): only EDGE and TICK detect one, and none where
F_BAD_STATE is raised (60_exceptions.md R208). -/
def detectedError (i : Instr) (s : State) : Option ErrorKind :=
  match s.soundPhase, i with
  | some p, .edge d => if s.edgeEn then edgeError? p d s else none
  | some p, .tick c d => if s.timerEn then tickError? p c d s else none
  | _, _ => none

/-- Stimuli run one after another with no other turn between them, stopping at a fault or a refusal. -/
def execAll : List Instr → State → Out
  | [], s => .next s
  | i :: rest, s =>
    match exec i s with
    | .next t => execAll rest t
    | .fault r => .fault r
    | .refused r => .refused r

/-- `n` edges, the samples given. -/
def edges (ds : List Bool) : List Instr := ds.map .edge

/-- Ticks, the samples given. -/
def ticks (cds : List (Bool × Bool)) : List Instr := cds.map (fun cd => .tick cd.1 cd.2)

end Sys2Proof.Machine
end

