-- ==== Sys2Proof/Machine/Assembler.lean ====
section
/-! DEFINITION. The assembler syntax (30_encoding.md R81), the pseudo-stimuli (30_encoding.md R82) and the schedule of
the test vectors (92_eei_decisions.md D33). Notation for test programs: no operation of the block. -/

namespace Sys2Proof.Machine

/-! ## Text (30_encoding.md R81) -/

/-- `0` or `1`. -/
def bitText (b : Bool) : List Char := if b then ['1'] else ['0']

/-- A digit below 16 (upper case: log entry 11). -/
def digitText (n : Nat) : Char := ['0', '1', '2', '3', '4', '5', '6', '7', '8', '9', 'A', 'B', 'C', 'D', 'E', 'F'].getD n '0'

/-- `0x` and two hex digits. -/
def byteText (b : Byte) : List Char := ['0', 'x', digitText (b.toNat / 16), digitText (b.toNat % 16)]

/-- A stimulus as a line of assembler text: its mnemonic, and its operands separated by a comma and a space
(30_encoding.md R81). -/
def asmText : Instr → List Char
  | .init => ['I', 'N', 'I', 'T']
  | .rxoff => ['R', 'X', 'O', 'F', 'F']
  | .rxon => ['R', 'X', 'O', 'N']
  | .busy => ['B', 'U', 'S', 'Y']
  | .send b => ['S', 'E', 'N', 'D', ' '] ++ byteText b
  | .avail => ['A', 'V', 'A', 'I', 'L']
  | .getb => ['G', 'E', 'T', 'B']
  | .edge d => ['E', 'D', 'G', 'E', ' '] ++ bitText d
  | .tick c d => ['T', 'I', 'C', 'K', ' '] ++ bitText c ++ [',', ' '] ++ bitText d

/-- The result part of a line, ` -> ` and the value (30_encoding.md R81). -/
def resultText : Result → List Char
  | .nothing => []
  | .bit b => [' ', '-', '>', ' '] ++ bitText b
  | .byte b => [' ', '-', '>', ' '] ++ byteText b

/-- The value of a hex digit, either case (log entry 11). -/
def digitValue (c : Char) : Option Nat :=
  let n := c.toNat
  if 48 ≤ n ∧ n ≤ 57 then some (n - 48)
  else if 65 ≤ n ∧ n ≤ 70 then some (n - 55)
  else if 97 ≤ n ∧ n ≤ 102 then some (n - 87)
  else none

/-- A decimal number, most significant digit first, after the value read so far. -/
def decimalValue : Nat → List Char → Option Nat
  | acc, [] => some acc
  | acc, c :: rest =>
    match digitValue c with
    | some v => if v < 10 then decimalValue (10 * acc + v) rest else none
    | none => none

/-- `imm8`: 0 to 255, in decimal or as `0x` and two hex digits (30_encoding.md R81). -/
def parseByte (cs : List Char) : Option Byte :=
  match cs with
  | ['0', 'x', h, l] =>
    match digitValue h, digitValue l with
    | some a, some b => some (BitVec.ofNat 8 (16 * a + b))
    | _, _ => none
  | [] => none
  | _ =>
    match decimalValue 0 cs with
    | some v => if v < 256 then some (BitVec.ofNat 8 v) else none
    | none => none

/-- `c` or `d`: `0` or `1` (30_encoding.md R81). -/
def parseBit (c : Char) : Option Bool := if c = '0' then some false else if c = '1' then some true else none

/-- A line of assembler text read back; none for a comment and for any other line (30_encoding.md R81). -/
def parseAsm (cs : List Char) : Option Instr :=
  match cs with
  | ['I', 'N', 'I', 'T'] => some .init
  | ['R', 'X', 'O', 'F', 'F'] => some .rxoff
  | ['R', 'X', 'O', 'N'] => some .rxon
  | ['B', 'U', 'S', 'Y'] => some .busy
  | ['A', 'V', 'A', 'I', 'L'] => some .avail
  | ['G', 'E', 'T', 'B'] => some .getb
  | 'S' :: 'E' :: 'N' :: 'D' :: ' ' :: rest => (parseByte rest).map .send
  | ['E', 'D', 'G', 'E', ' ', d] => (parseBit d).map .edge
  | ['T', 'I', 'C', 'K', ' ', c, ',', ' ', d] =>
    match parseBit c, parseBit d with
    | some cv, some dv => some (.tick cv dv)
    | _, _ => none
  | _ => none

/-! ## Pseudo-stimuli (30_encoding.md R82) -/

/-- The bits of a byte in wire order, least significant first (20_memory.md R58). -/
def wireBits (b : Byte) : List Bool := (List.range 8).map b.getLsbD

/-- `p = ~(b[0] ^ ... ^ b[7])` (30_encoding.md R82). -/
def oddParity (b : Byte) : Bool := parityBit ((wireBits b).foldl parityStep false)

/-- `RXFRAME b, p, s`: the eleven edges of a receive frame (30_encoding.md R82). -/
def rxFrameWith (b : Byte) (p stop : Bool) : List Instr :=
  .edge false :: (edges (wireBits b) ++ [.edge p, .edge stop])

/-- `RXFRAME b`: a well-formed odd-parity frame (30_encoding.md R82). -/
def rxFrame (b : Byte) : List Instr := rxFrameWith b (oddParity b) true

/-- `TXCLOCKS b, a`: the eleven falling edges of a host-to-device frame (30_encoding.md R82). -/
def txClocks (b : Byte) (a : Bool) : List Instr :=
  edges (wireBits b) ++ [.edge (oddParity b), .edge true, .edge a]

/-- `TICKS n, c, d` (30_encoding.md R82). -/
def tickTimes (n : Nat) (c d : Bool) : List Instr := List.replicate n (.tick c d)

/-- `WAITIDLE`, the host loop cut at `n` queries: BUSY, repeated while the result is 1 (30_encoding.md R82). -/
def waitIdle : Nat → State → Out
  | 0, s => .next s
  | n + 1, s =>
    match exec .busy s with
    | .next t => if t.result = .bit true then waitIdle n t else .next t
    | .fault r => .fault r
    | .refused r => .refused r

/-- `DRAIN`, the host loop cut at `n` reads, with the bytes it read: AVAIL; while the result is 1, GETB
(30_encoding.md R82). -/
def drain : Nat → State → List Byte × Out
  | 0, s => ([], .next s)
  | n + 1, s =>
    match exec .avail s with
    | .next t =>
      if t.result = .bit true then
        match exec .getb t with
        | .next u =>
          match u.result with
          | .byte b => let (bs, o) := drain n u; (b :: bs, o)
          | .bit _ => ([], .next u)
          | .nothing => ([], .next u)
        | .fault r => ([], .fault r)
        | .refused r => ([], .refused r)
      else ([], .next t)
    | .fault r => ([], .fault r)
    | .refused r => ([], .refused r)

/-! ## Schedules -/

/-- The schedule of the test vectors: the stimuli in order, and after each the host's internal step, taken as soon
as its guard holds (92_eei_decisions.md D33). One schedule among those 60_exceptions.md R207 admits. -/
def eagerAgenda (is : List Instr) : List Turn := is.flatMap (fun i => [.stimulus (encode i), .hostStep])

/-- A run of the whole agenda, to its end or to the first stop. -/
def runAgenda : List Turn → State → Out
  | [], s => .next s
  | t :: rest, s =>
    match step { s with agenda := [t] } with
    | .next u => runAgenda rest u
    | .fault r => .fault r
    | .refused r => .refused r

end Sys2Proof.Machine
end

