-- ==== Sys2Proof/Safety.lean ====
section
/-! DEFINITION. What a sound state and a safe run are, in the terms claims use: the invariants of 10_state.md R42,
reachability, and the fairness of 70_reset_and_hazards.md R248. -/

namespace Sys2Proof.Machine

/-- FAULT = none: the state has steps (10_state.md R37). -/
abbrev Live (s : State) : Prop := s.fault = none

/-- HOST_PHASE = READY: the host may issue a command (30_encoding.md R75). -/
abbrev HostReady (s : State) : Prop := s.hostPhase = hostReady

/-- The block is in the protocol state `p` (10_state.md R21). -/
abbrev InPhase (s : State) (p : ProtocolState) : Prop := s.state = p.code

/-- STATE is in the watched set W (10_state.md R22). -/
abbrev InWatched (s : State) : Prop :=
  s.state = 1 ∨ s.state = 2 ∨ s.state = 3 ∨ s.state = 5 ∨ s.state = 6 ∨ s.state = 7 ∨ s.state = 8

/-- A stimulus finds no code F_BAD_STATE is raised on: STATE is in 0..10, and BITCNT in 1..8 in a data state
(10_state.md R21, 60_exceptions.md R210). -/
abbrev Sound (s : State) : Prop :=
  s.state.toNat ≤ 10 ∧
    (InPhase s .receivingData ∨ InPhase s .transmittingData → 1 ≤ s.bitcnt.toNat ∧ s.bitcnt.toNat ≤ 8)

/-- The parameters are legal (00_scope.md R9). -/
abbrev LegalParams (s : State) : Prop := s.params.wellFormed = true

/-- The registers hold values of their widths and codes: 10_state.md R20's CNT_W for the counters, R42 item 1, the
codes R31 and R36 never write. -/
abbrev RangesOk (s : State) : Prop :=
  s.state.toNat ≤ 10 ∧ s.bitcnt.toNat ≤ 8 ∧ s.bark < 2 ^ s.params.cntW ∧ s.idlecnt < 2 ^ s.params.cntW ∧
    s.timerPer ≠ 3 ∧ s.hostPhase ≠ 3

/-- In a data state 1 to 8 bits remain, so no edge finds F_BAD_STATE (10_state.md R24). -/
abbrev DataCountOk (s : State) : Prop :=
  InPhase s .receivingData ∨ InPhase s .transmittingData → 1 ≤ s.bitcnt.toNat

/-- 10_state.md R42 items 2 to 6: who owns the block in each protocol state. -/
abbrev ControlOk (s : State) : Prop :=
  (¬ InPhase s .error → s.recPhase = false) ∧
  (InWatched s → 1 ≤ s.bark ∧ s.timerEn = true) ∧
  (InPhase s .requestingSend → s.timerEn = true ∧ s.edgeEn = false ∧ s.hostPhase = hostWaitDone) ∧
  (InPhase s .awaitingIdle → s.timerEn = true ∧ 1 ≤ s.idlecnt) ∧
  (InPhase s .error → s.timerEn = true)

/-- What of 10_state.md R42 item 8 the rules keep: during the recovery hold edges are disabled and the clock is driven
low. The item's DAT clauses do not follow: RXOFF in the hold releases DAT (42_host_api.md R162; log entry 9). -/
abbrev HoldOk (s : State) : Prop :=
  InPhase s .error ∧ s.recPhase = true → s.edgeEn = false ∧ s.clk = { dir := true, lvl := false }

/-- The block drives the clock line only low, and only with edges disabled (70_reset_and_hazards.md R242: "No rule
drives the clock line low while EDGE_EN = 1"). -/
abbrev ClockDriveOk (s : State) : Prop := s.clk.dir = true → s.clk.lvl = false ∧ s.edgeEn = false

/-- The receive buffer is sound: indices and listed slots below CAP, the memory in its canonical form
(20_memory.md R50, 10_state.md R35). -/
abbrev BufferOk (s : State) : Prop :=
  s.head < s.params.cap ∧ s.tail < s.params.cap ∧ Memory.wf s.rxbuf ∧ ∀ c ∈ s.rxbuf, c.1 < s.params.cap

/-- "Every slot in the readable range ... has been written by a push" (20_memory.md R56). -/
abbrev ReadableWritten (s : State) : Prop :=
  ∀ i < unreadCount s, (Memory.read s.rxbuf ((s.tail + i) % s.params.cap)).isSome = true

/-- The invariant every step keeps. -/
abbrev Coherent (s : State) : Prop :=
  LegalParams s ∧ RangesOk s ∧ DataCountOk s ∧ ControlOk s ∧ HoldOk s ∧ ClockDriveOk s ∧ BufferOk s ∧
    ReadableWritten s

/-- The states reachable from power-on with the parameters `p`, under any agenda. -/
inductive Reachable (p : Params) : State → Prop where
  | powerOn (turns : List Turn) : Reachable p { State.powerOn p with agenda := turns }
  | step {s t : State} : Reachable p s → step s = .next t → Reachable p t

/-! ## Infinite runs (70_reset_and_hazards.md R248) -/

/-- A run: at every instant the agent's turn is taken from the state of that instant. -/
def IsRun (st : Nat → State) (turn : Nat → Turn) : Prop :=
  ∀ n, step { st n with agenda := [turn n] } = .next (st (n + 1))

/-- The turn is a TICK. -/
def Turn.isTick (t : Turn) : Prop := ∃ c d, t = .stimulus (encode (.tick c d))

/-- Weak fairness of TICK while TIMER_EN = 1 (70_reset_and_hazards.md R248). -/
def TickFair (st : Nat → State) (turn : Nat → Turn) : Prop :=
  ∀ n, (∀ m, n ≤ m → (st m).timerEn = true) → ∃ m, n ≤ m ∧ (turn m).isTick

/-- The guard of a host step holds (42_host_api.md R167). -/
def hostStepEnabled (s : State) : Bool := s.fault.isNone && (hstartEnabled s || hretEnabled s)

/-- Weak fairness of the host's steps: "a host step whose guard holds is eventually taken"
(70_reset_and_hazards.md R248). -/
def HostFair (st : Nat → State) (turn : Nat → Turn) : Prop :=
  ∀ n, (∀ m, n ≤ m → hostStepEnabled (st m) = true) → ∃ m, n ≤ m ∧ turn m = .hostStep

/-- The stronger assumption of 70_reset_and_hazards.md R248: "a guard enabled infinitely often is eventually taken". -/
def HostStronglyFair (st : Nat → State) (turn : Nat → Turn) : Prop :=
  ∀ n, (∀ k, n ≤ k → ∃ m, k ≤ m ∧ hostStepEnabled (st m) = true) →
    ∃ m, n ≤ m ∧ turn m = .hostStep ∧ hostStepEnabled (st m) = true

end Sys2Proof.Machine
end

