-- ==== Sys2Proof/Certificates/Slice0/Obligations.lean ====
section
/-! DEFINITION. The statements for the provers, each a formalisation of rules of spec/. The helpers under
`Sys2Proof.Claims` are the statements' own: they spell register values out and call no meaning's arm. -/

namespace Sys2Proof.Claims

open Sys2Proof.Machine

/-- An edge is accepted in the protocol state `p` (40_edge_engine.md R100). -/
abbrev AcceptsEdge (s : State) (p : ProtocolState) : Prop := Live s ∧ s.edgeEn = true ∧ InPhase s p

/-- A tick occurs in the protocol state `p` (41_timer_controller.md R130). -/
abbrev AcceptsTick (s : State) (p : ProtocolState) : Prop := Live s ∧ s.timerEn = true ∧ InPhase s p

/-- A host command runs: it is admissible (30_encoding.md R75), and finds no code F_BAD_STATE is raised on
(60_exceptions.md R208). -/
abbrev AcceptsCommand (s : State) : Prop := Live s ∧ HostReady s ∧ Sound s

/-- An edge left Error (STATE = 10): the recovery request unless a recovery hold is in progress
(40_edge_engine.md R112). -/
def errorByEdge (s : State) : State :=
  { s with
    state := 10
    timerEn := if s.recPhase then s.timerEn else true
    timerPer := if s.recPhase then s.timerPer else 1 }

/-- The outcome with TIMER_PER forgotten and the parameters `T_*` and HOST_PORT_BASE set to 0. -/
def forgetTiming (s : State) : State :=
  { s with
    timerPer := 0
    params := { s.params with tHandshake := 0, tWatchdog := 0, tRecovery := 0, hostPortBase := 0 } }

/-- Two outcomes agree but for what `forgetTiming` forgets. -/
def SameButTiming : Out → Out → Prop
  | .next s, .next t => forgetTiming s = forgetTiming t
  | .fault r, .fault q => r = q
  | .refused r, .refused q => r = q
  | _, _ => False

/-- The data-line level the block drives after each of the edges, with the samples given. -/
def drivenLevels : List Bool → State → List (Option Bool)
  | [], _ => []
  | d :: rest, s =>
    match exec (.edge d) s with
    | .next t => t.dat.driven :: drivenLevels rest t
    | .fault _ => []
    | .refused _ => []

/-- The exclusive-or of a byte's bits, written out. -/
def bitXor (b : Byte) : Bool :=
  b.getLsbD 0 ^^ b.getLsbD 1 ^^ b.getLsbD 2 ^^ b.getLsbD 3 ^^ b.getLsbD 4 ^^ b.getLsbD 5 ^^ b.getLsbD 6 ^^ b.getLsbD 7

end Sys2Proof.Claims

open Sys2Proof Sys2Proof.Machine Sys2Proof.Claims

/-! ## Encoding -/

/-- Words written out from 30_encoding.md R72's map and R73's operands decode to their operations. -/
def Obligations.WrittenWordsDecode : Prop :=
  decode 0b000100000000#12 = .ok .init ∧ decode 0b001000000000#12 = .ok .rxoff ∧
  decode 0b001000000001#12 = .ok .rxon ∧ decode 0b001100000000#12 = .ok .busy ∧
  decode 0b010010100101#12 = .ok (.send 0xA5) ∧ decode 0b010100000000#12 = .ok .avail ∧
  decode 0b011000000000#12 = .ok .getb ∧ decode 0b100000000001#12 = .ok (.edge true) ∧
  decode 0b100100000010#12 = .ok (.tick true false)

/-- 30_encoding.md R72, R73: decoding an encoded stimulus gives it back, with every operand value, and every word
that decodes is the encoding of what it decodes to. -/
def Obligations.DecodeEncodeAgree : Prop :=
  (∀ i, decode (encode i) = .ok i) ∧ (∀ w i, decode w = .ok i → encode i = w)

/-- 30_encoding.md R76, R77, R78 against the match/mask pairs of R72: a word decodes exactly when a row covers it, to
that row's operation; it is refused with RESERVED_OP exactly when OP is 0x0, 0x7 or 0xA to 0xF; else with
RESERVED_ARG. -/
def Obligations.DecodingIsTotalByTheTable : Prop :=
  ∀ w : Word,
    (wordWellFormed w = true ↔ ∃ i, decode w = .ok i) ∧
    (∀ i, decode w = .ok i → ∃ r ∈ opcodeRows, r.covers w = true ∧ r.mnemonic = i.mnemonic) ∧
    (decode w = .error .reservedOp ↔ opField w = 0x0 ∨ opField w = 0x7 ∨ 0xA ≤ (opField w).toNat) ∧
    (decode w = .error .reservedArg ↔
      ¬ (opField w = 0x0 ∨ opField w = 0x7 ∨ 0xA ≤ (opField w).toNat) ∧ wordWellFormed w = false)

/-- 10_state.md R21: the encoding of STATE; 11 to 15 encode no protocol state. -/
def Obligations.StateEncoding : Prop :=
  [ProtocolState.idle, .receivingData, .receivingParity, .receivingStop, .requestingSend, .transmittingData,
    .transmittingParity, .transmittingStop, .awaitingAck, .awaitingIdle, .error].map (fun p => p.code.toNat) =
      [0, 1, 2, 3, 4, 5, 6, 7, 8, 9, 10] ∧
  (∀ p : ProtocolState, ProtocolState.ofCode p.code = some p) ∧
  (∀ v : BitVec 4, 11 ≤ v.toNat → ProtocolState.ofCode v = none)

/-- 30_encoding.md R81: reading a printed stimulus gives it back. The letter case of the hex digits is the model's
choice (log entry 11). -/
def Obligations.AssemblerTextReadsBack : Prop := ∀ i, parseAsm (asmText i) = some i

/-! ## The step -/

/-- A step runs the decoded stimulus: the turn is taken, the result is cleared (the model's agenda and result field,
log entries 2 and 5), and the step is exec of the stimulus there (30_encoding.md R78; 60_exceptions.md R208). -/
def Obligations.StepRunsDecodedStimulus : Prop :=
  ∀ s w rest i, s.agenda = .stimulus w :: rest → decode w = .ok i → Live s →
    step s = exec i { s with agenda := rest, result := .nothing }

/-- 30_encoding.md R76, R77, R80: a refused word records its kind in FAULT and changes no register besides, whatever
the state (the turn is taken and the result cleared: log entries 2 and 5). -/
def Obligations.ReservedWordsAreRefused : Prop :=
  ∀ s w rest, s.agenda = .stimulus w :: rest → Live s →
    (decode w = .error .reservedOp →
      step s = .next { s with agenda := rest, result := .nothing, fault := some .reservedOp }) ∧
    (decode w = .error .reservedArg →
      step s = .next { s with agenda := rest, result := .nothing, fault := some .reservedArg })

/-- 10_state.md R37, 60_exceptions.md R208 (1): a state with FAULT set has no further step, whatever the stimulus and
the agenda; the stop has the class and the name of 60_exceptions.md R210. -/
def Obligations.FaultedStateHasNoStep : Prop :=
  ∀ s,
    (s.fault = some .emptyPop → step s = .fault .emptyPop ∧ ∀ i, exec i s = .fault .emptyPop) ∧
    (s.fault = some .badState → step s = .fault .badState ∧ ∀ i, exec i s = .fault .badState) ∧
    (s.fault = some .reservedOp → step s = .refused .reservedOp ∧ ∀ i, exec i s = .refused .reservedOp) ∧
    (s.fault = some .reservedArg → step s = .refused .reservedArg ∧ ∀ i, exec i s = .refused .reservedArg) ∧
    (s.fault = some .tickDisarmed → step s = .refused .tickDisarmed ∧ ∀ i, exec i s = .refused .tickDisarmed) ∧
    (s.fault = some .hostBlocked → step s = .refused .hostBlocked ∧ ∀ i, exec i s = .refused .hostBlocked)

/-- 30_encoding.md R80, 20_memory.md R54: whatever stimulus records a kind in FAULT changes no other state. -/
def Obligations.RecordingAFaultChangesNothingElse : Prop :=
  ∀ i s t k, exec i s = .next t → t.fault = some k → t = { s with fault := some k }

/-- 30_encoding.md R74: BUSY and AVAIL return one bit, GETB returns a byte, the other stimuli return nothing. -/
def Obligations.ResultsByStimulus : Prop :=
  ∀ s w rest i t, s.agenda = .stimulus w :: rest → decode w = .ok i → step s = .next t → t.fault = none →
    (i = .busy ∨ i = .avail → ∃ b, t.result = .bit b) ∧
    (i = .getb → ∃ b, t.result = .byte b) ∧
    (i ≠ .busy → i ≠ .avail → i ≠ .getb → t.result = .nothing)

/-- 70_reset_and_hazards.md R231: with no stimulus presented the block waits and nothing changes. -/
def Obligations.BlockWaitsForStimuli : Prop := ∀ s, s.agenda = [] → Live s → step s = .next s

/-- 42_host_api.md R167: HSTART, HRET, and the hold while neither guard holds. -/
def Obligations.HostInternalSteps : Prop :=
  ∀ s rest, s.agenda = .hostStep :: rest → Live s →
    (s.hostPhase = 1 ∧ InPhase s .idle →
      step s = .next { s with
        agenda := rest, edgeEn := false, clk := { dir := true, lvl := false },
        dat := { s.dat with dir := false }, pending := s.hostByte, state := 4, timerEn := true, timerPer := 0,
        hostPhase := 2 }) ∧
    (s.hostPhase = 2 ∧ InPhase s .idle → step s = .next { s with agenda := rest, hostPhase := 0 }) ∧
    (¬ InPhase s .idle ∨ (s.hostPhase ≠ 1 ∧ s.hostPhase ≠ 2) → step s = .next { s with agenda := rest })

/-! ## Admissibility and model faults -/

/-- 30_encoding.md R75: a host command presented while HOST_PHASE != READY is refused with HOST_BLOCKED. -/
def Obligations.BlockedHostIsRefused : Prop :=
  ∀ i s, agentOf i = .host → Live s → ¬ HostReady s → exec i s = .next { s with fault := some .hostBlocked }

/-- 30_encoding.md R75, 41_timer_controller.md R130: a tick of a disarmed timer is refused with TICK_DISARMED, whatever
STATE holds. -/
def Obligations.DisarmedTimerDoesNotTick : Prop :=
  ∀ c d s, Live s → s.timerEn = false → exec (.tick c d) s = .next { s with fault := some .tickDisarmed }

/-- 10_state.md R30, 40_edge_engine.md R100: with EDGE_EN = 0 an edge is lost and changes nothing, whatever STATE
holds. -/
def Obligations.EdgeWithReceptionOffIsLost : Prop :=
  ∀ d s, Live s → s.edgeEn = false → exec (.edge d) s = .next s

/-- 10_state.md R21, 60_exceptions.md R208 and R210: every admissible stimulus that finds STATE in 11 to 15, or BITCNT
outside 1 to 8 in a data state, records F_BAD_STATE and changes nothing else (log entry 12). A HEAD or TAIL of CAP or
more, which no run reaches, names no slot: a push or a pop there stops with the model's own fault (log entry 7). -/
def Obligations.UnreachableCodesFault : Prop :=
  (∀ s i, Live s → Admissible i s →
    11 ≤ s.state.toNat ∨
      ((InPhase s .receivingData ∨ InPhase s .transmittingData) ∧ (s.bitcnt = 0 ∨ 8 < s.bitcnt.toNat)) →
    exec i s = .next { s with fault := some .badState }) ∧
  (∀ s, AcceptsEdge s .receivingStop → s.params.cap ≤ s.head → exec (.edge true) s = .fault .slotOutOfRange) ∧
  (∀ s, AcceptsCommand s → s.head ≠ s.tail → s.params.cap ≤ s.tail → exec .getb s = .fault .slotOutOfRange)

/-! ## Reset -/

/-- 70_reset_and_hazards.md R230: the reset value of every register, for every choice of the parameters. -/
def Obligations.PowerOnRegisters : Prop :=
  ∀ p,
    let s := State.powerOn p
    s.state = 0 ∧ s.edgeEn = false ∧ s.timerEn = false ∧ s.clk.dir = false ∧ s.dat.dir = false ∧ s.head = 0 ∧
    s.tail = 0 ∧ s.recPhase = false ∧ s.hostPhase = 0 ∧ s.fault = none ∧ s.shift = 0x00 ∧ s.pending = 0x00 ∧
    s.hostByte = 0x00 ∧ s.bitcnt = 0 ∧ s.parity = false ∧ s.bark = 0 ∧ s.idlecnt = 0 ∧ s.timerPer = 0 ∧
    s.clk.lvl = true ∧ s.dat.lvl = true ∧ s.params = p

/-- 70_reset_and_hazards.md R231: after reset no edge takes effect and no tick can occur. -/
def Obligations.ResetMasksBothSources : Prop :=
  ∀ p c d,
    exec (.edge d) (State.powerOn p) = .next (State.powerOn p) ∧
    exec (.tick c d) (State.powerOn p) = .next { State.powerOn p with fault := some .tickDisarmed }

/-! ## EDGE, the framing engine -/

/-- 40_edge_engine.md R101: the start bit. -/
def Obligations.EdgeStartBit : Prop :=
  ∀ s, AcceptsEdge s .idle →
    exec (.edge false) s = .next { s with
      state := 1, shift := 0x00, bitcnt := 8, parity := false, bark := s.params.barkBit, timerEn := true,
      timerPer := 1 } ∧
    exec (.edge true) s = .next (errorByEdge s)

/-- 40_edge_engine.md R102: a received data bit, shifted in at bit 7; F_BAD_STATE for a BITCNT outside 1 to 8. -/
def Obligations.EdgeReceivedDataBit : Prop :=
  ∀ s d, AcceptsEdge s .receivingData →
    (1 ≤ s.bitcnt.toNat ∧ s.bitcnt.toNat ≤ 8 → exec (.edge d) s = .next { s with
      shift := BitVec.ofBool d ++ s.shift.extractLsb' 1 7, parity := s.parity ^^ d, bitcnt := s.bitcnt - 1,
      bark := s.params.barkBit, state := if s.bitcnt = 1 then 2 else 1 }) ∧
    (¬ (1 ≤ s.bitcnt.toNat ∧ s.bitcnt.toNat ≤ 8) →
      exec (.edge d) s = .next { s with fault := some .badState })

/-- 40_edge_engine.md R103: the received parity bit. -/
def Obligations.EdgeReceivedParityBit : Prop :=
  ∀ s d, AcceptsEdge s .receivingParity →
    ((s.parity ^^ d) = true →
      exec (.edge d) s = .next { s with parity := true, state := 3, bark := s.params.barkBit }) ∧
    ((s.parity ^^ d) = false → exec (.edge d) s = .next (errorByEdge { s with parity := false }))

/-- 40_edge_engine.md R104, 20_memory.md R51: a stop bit of 1 pushes SHIFT and returns to Idle, a stop bit of 0 is an
error and pushes nothing. -/
def Obligations.EdgeStopBit : Prop :=
  ∀ s, AcceptsEdge s .receivingStop →
    (s.head < s.params.cap →
      ∃ m, exec (.edge true) s = .next { s with
          rxbuf := m, head := (s.head + 1) % s.params.cap, state := 0, timerEn := false } ∧
        Memory.read m s.head = some s.shift ∧
        ∀ slot, slot ≠ s.head → Memory.read m slot = Memory.read s.rxbuf slot) ∧
    exec (.edge false) s = .next (errorByEdge s)

/-- 40_edge_engine.md R105, R110, R111: edges in the timer-owned states change nothing of their own; in Error the
recovery request remains (R112). -/
def Obligations.EdgeInTimerOwnedStates : Prop :=
  ∀ s d,
    (AcceptsEdge s .requestingSend → exec (.edge d) s = .next s) ∧
    (AcceptsEdge s .awaitingIdle → exec (.edge d) s = .next s) ∧
    (AcceptsEdge s .error → exec (.edge d) s = .next (errorByEdge s))

/-- 40_edge_engine.md R106: a data bit out, least-significant first; the sample is ignored; F_BAD_STATE for a BITCNT
outside 1 to 8. -/
def Obligations.EdgeTransmittedDataBit : Prop :=
  ∀ s d, AcceptsEdge s .transmittingData →
    (1 ≤ s.bitcnt.toNat ∧ s.bitcnt.toNat ≤ 8 → exec (.edge d) s = .next { s with
      dat := { dir := true, lvl := s.shift.getLsbD 0 }, parity := s.parity ^^ s.shift.getLsbD 0,
      shift := s.shift >>> 1, bitcnt := s.bitcnt - 1, bark := s.params.barkBit,
      state := if s.bitcnt = 1 then 6 else 5 }) ∧
    (¬ (1 ≤ s.bitcnt.toNat ∧ s.bitcnt.toNat ≤ 8) →
      exec (.edge d) s = .next { s with fault := some .badState })

/-- 40_edge_engine.md R107, R108: the parity bit out, then the stop bit out and both lines released. -/
def Obligations.EdgeTransmittedParityAndStop : Prop :=
  ∀ s d,
    (AcceptsEdge s .transmittingParity →
      exec (.edge d) s = .next { s with
        dat := { dir := true, lvl := !s.parity }, state := 7, bark := s.params.barkBit }) ∧
    (AcceptsEdge s .transmittingStop →
      exec (.edge d) s = .next { s with
        dat := { dir := false, lvl := true }, clk := { dir := false, lvl := s.clk.lvl }, state := 8,
        bark := s.params.barkBit })

/-- 40_edge_engine.md R109: the acknowledgement. -/
def Obligations.EdgeAcknowledgement : Prop :=
  ∀ s, AcceptsEdge s .awaitingAck →
    exec (.edge false) s = .next { s with idlecnt := s.params.idleWait, state := 9 } ∧
    exec (.edge true) s = .next (errorByEdge s)

/-- 40_edge_engine.md R112: after every accepted edge that left Error, recovery is requested unless it is under way. -/
def Obligations.EveryEdgeInErrorRequestsRecovery : Prop :=
  ∀ s d t, Live s → s.edgeEn = true → exec (.edge d) s = .next t → InPhase t .error →
    (t.recPhase = false → t.timerEn = true ∧ t.timerPer = 1) ∧
    (t.recPhase = true → t.timerEn = s.timerEn ∧ t.timerPer = s.timerPer)

/-! ## TICK, the timeout and recovery controller -/

/-- 41_timer_controller.md R131: a stale tick in Idle. -/
def Obligations.TickInIdleDisarms : Prop :=
  ∀ s c d, AcceptsTick s .idle → exec (.tick c d) s = .next { s with timerEn := false, recPhase := false }

/-- 41_timer_controller.md R133: the handshake completes. -/
def Obligations.TickCompletesHandshake : Prop :=
  ∀ s c d, AcceptsTick s .requestingSend →
    exec (.tick c d) s = .next { s with
      bark := s.params.barkRts, dat := { dir := true, lvl := false }, clk := { s.clk with dir := false },
      edgeEn := true, shift := s.pending, bitcnt := 8, parity := false, state := 5, timerEn := true, timerPer := 1 }

/-- 41_timer_controller.md R134: the bark countdown, in every watched state. (A BITCNT outside 1 to 8 in a data state:
`UnreachableCodesFault`.) -/
def Obligations.TickCountsBarkDown : Prop :=
  ∀ s c d, Live s → s.timerEn = true → InWatched s → Sound s →
    (s.bark = 0 → exec (.tick c d) s = .next { s with state := 10 }) ∧
    (s.bark = 1 → exec (.tick c d) s = .next { s with bark := 0, state := 10 }) ∧
    (2 ≤ s.bark → exec (.tick c d) s = .next { s with bark := s.bark - 1 })

/-- 41_timer_controller.md R135: the end of a transmission, the lines before the counter. -/
def Obligations.TickEndsTransmission : Prop :=
  ∀ s c d, AcceptsTick s .awaitingIdle →
    (c = true ∧ d = true → exec (.tick c d) s = .next { s with timerEn := false, state := 0 }) ∧
    (¬ (c = true ∧ d = true) → s.idlecnt = 0 → exec (.tick c d) s = .next { s with state := 10 }) ∧
    (¬ (c = true ∧ d = true) → s.idlecnt = 1 → exec (.tick c d) s = .next { s with idlecnt := 0, state := 10 }) ∧
    (¬ (c = true ∧ d = true) → 2 ≤ s.idlecnt → exec (.tick c d) s = .next { s with idlecnt := s.idlecnt - 1 })

/-- 41_timer_controller.md R136, R137: the two ticks of recovery. -/
def Obligations.TickStartsAndEndsRecovery : Prop :=
  ∀ s c d, AcceptsTick s .error →
    (s.recPhase = false → exec (.tick c d) s = .next { s with
      edgeEn := false, clk := { dir := true, lvl := false }, dat := { dir := true, lvl := false }, recPhase := true,
      timerEn := true, timerPer := 2 }) ∧
    (s.recPhase = true → exec (.tick c d) s = .next { s with
      clk := { s.clk with dir := false }, dat := { s.dat with dir := false }, shift := 0x00, bitcnt := 0,
      parity := false, state := 0, edgeEn := true, recPhase := false, timerEn := false })

/-! ## Host commands

Where one finds a code no run reaches, F_BAD_STATE comes first: `UnreachableCodesFault`. -/

/-- 42_host_api.md R160: INIT. -/
def Obligations.InitEffect : Prop :=
  ∀ s, Live s →
    (HostReady s ∧ Sound s → exec .init s = .next { s with
      state := 0, head := 0, tail := 0, edgeEn := false, timerEn := false, recPhase := false,
      clk := { s.clk with dir := false }, dat := { s.dat with dir := false } }) ∧
    (¬ HostReady s → exec .init s = .next { s with fault := some .hostBlocked })

/-- 42_host_api.md R161, R162: RXON and RXOFF. -/
def Obligations.ReceptionOnAndOff : Prop :=
  ∀ s, Live s →
    (HostReady s ∧ Sound s →
      exec .rxon s = .next { s with
        state := 0, clk := { s.clk with dir := false }, dat := { s.dat with dir := false }, edgeEn := true,
        recPhase := false } ∧
      exec .rxoff s = .next { s with
        edgeEn := false, clk := { dir := true, lvl := false }, dat := { s.dat with dir := false } }) ∧
    (¬ HostReady s →
      exec .rxon s = .next { s with fault := some .hostBlocked } ∧
      exec .rxoff s = .next { s with fault := some .hostBlocked })

/-- 42_host_api.md R165, R168: BUSY and AVAIL return their flag and write nothing else. -/
def Obligations.QueriesReturnTheirFlag : Prop :=
  ∀ s, Live s →
    (HostReady s ∧ Sound s →
      exec .busy s = .next { s with result := .bit (decide (s.state ≠ 0)) } ∧
      exec .avail s = .next { s with result := .bit (decide (s.head ≠ s.tail)) }) ∧
    (¬ HostReady s →
      exec .busy s = .next { s with fault := some .hostBlocked } ∧
      exec .avail s = .next { s with fault := some .hostBlocked })

/-- 42_host_api.md R169, 20_memory.md R53, R54: GETB returns the byte in slot TAIL and advances TAIL, and faults on an
empty buffer. A slot nothing has written returns some byte, the model's free value (log entry 4). -/
def Obligations.GetbPopsTheOldestByte : Prop :=
  ∀ s, Live s →
    (¬ HostReady s → exec .getb s = .next { s with fault := some .hostBlocked }) ∧
    (HostReady s ∧ Sound s → s.head = s.tail → exec .getb s = .next { s with fault := some .emptyPop }) ∧
    (HostReady s ∧ Sound s → s.head ≠ s.tail → s.tail < s.params.cap →
      ∃ b, exec .getb s = .next { s with result := .byte b, tail := (s.tail + 1) % s.params.cap } ∧
        ∀ v, Memory.read s.rxbuf s.tail = some v → b = v)

/-- 42_host_api.md R166: SEND starts at once in Idle, and else latches its byte and waits. -/
def Obligations.SendStartsOrWaits : Prop :=
  ∀ s b, Live s →
    (¬ HostReady s → exec (.send b) s = .next { s with fault := some .hostBlocked }) ∧
    (HostReady s ∧ Sound s ∧ InPhase s .idle → exec (.send b) s = .next { s with
      edgeEn := false, clk := { dir := true, lvl := false }, dat := { s.dat with dir := false }, pending := b,
      state := 4, timerEn := true, timerPer := 0, hostPhase := 2 }) ∧
    (HostReady s ∧ Sound s ∧ ¬ InPhase s .idle → exec (.send b) s = .next { s with hostByte := b, hostPhase := 1 })

/-- 42_host_api.md R170, 10_state.md R42 item 7: from the start of a send until the host returns, PENDING keeps the
byte of that send, and the host's phase changes only by HRET in Idle; while the host waits to start, HOST_BYTE keeps the
byte and HSTART stages it. -/
def Obligations.BlockedSendKeepsItsByte : Prop :=
  ∀ s t, step s = .next t →
    (s.hostPhase = 2 → t.pending = s.pending ∧
      (t.hostPhase = 2 ∨ (t.hostPhase = 0 ∧ InPhase s .idle ∧ ∃ rest, s.agenda = .hostStep :: rest))) ∧
    (s.hostPhase = 1 → (t.hostPhase = 1 ∧ t.hostByte = s.hostByte ∧ t.pending = s.pending) ∨
      (t.hostPhase = 2 ∧ t.pending = s.hostByte ∧ InPhase s .idle ∧ InPhase t .requestingSend))

/-! ## Frames and whole-machine rules -/

/-- 10_state.md R20's "written by" column and 20_memory.md R63, over every stimulus: what changes a register, and that
nothing else does. INIT writes HEAD as 42_host_api.md R160 says (log entry 10). -/
def Obligations.RegistersHaveTheirWriters : Prop :=
  ∀ i s t, exec i s = .next t →
    t.params = s.params ∧ t.agenda = s.agenda ∧ t.hostByte = (match i with
      | .send b => if t.hostPhase = 1 ∧ t.fault = none then b else s.hostByte
      | _ => s.hostByte) ∧
    (∀ slot, Memory.read t.rxbuf slot ≠ Memory.read s.rxbuf slot →
      i = .edge true ∧ s.edgeEn = true ∧ InPhase s .receivingStop ∧ slot = s.head) ∧
    (t.head ≠ s.head → i = .init ∨ (i = .edge true ∧ s.edgeEn = true ∧ InPhase s .receivingStop)) ∧
    (t.tail ≠ s.tail → i = .init ∨ i = .getb) ∧
    (t.pending ≠ s.pending → ∃ b, i = .send b ∧ InPhase s .idle) ∧
    (t.hostPhase ≠ s.hostPhase → ∃ b, i = .send b) ∧
    (t.shift ≠ s.shift ∨ t.bitcnt ≠ s.bitcnt ∨ t.parity ≠ s.parity →
      (∃ d, i = .edge d ∧ s.edgeEn = true) ∨
      (∃ c d, i = .tick c d ∧ (InPhase s .requestingSend ∨ (InPhase s .error ∧ s.recPhase = true)))) ∧
    (t.bark ≠ s.bark → (∃ d, i = .edge d ∧ s.edgeEn = true) ∨
      (∃ c d, i = .tick c d ∧ (InPhase s .requestingSend ∨ InWatched s))) ∧
    (t.idlecnt ≠ s.idlecnt → (i = .edge false ∧ InPhase s .awaitingAck) ∨
      (∃ c d, i = .tick c d ∧ InPhase s .awaitingIdle)) ∧
    (t.state ≠ s.state → i = .init ∨ i = .rxon ∨ (∃ b, i = .send b) ∨ (∃ d, i = .edge d) ∨ ∃ c d, i = .tick c d) ∧
    (t.edgeEn ≠ s.edgeEn → i = .init ∨ i = .rxon ∨ i = .rxoff ∨ (∃ b, i = .send b) ∨ ∃ c d, i = .tick c d) ∧
    (t.timerEn ≠ s.timerEn → i = .init ∨ (∃ b, i = .send b) ∨ (∃ d, i = .edge d) ∨ ∃ c d, i = .tick c d) ∧
    (t.timerPer ≠ s.timerPer → (∃ b, i = .send b) ∨ (∃ d, i = .edge d) ∨ ∃ c d, i = .tick c d) ∧
    (t.recPhase ≠ s.recPhase → i = .init ∨ i = .rxon ∨ ∃ c d, i = .tick c d) ∧
    (t.clk ≠ s.clk → i = .init ∨ i = .rxon ∨ i = .rxoff ∨ (∃ b, i = .send b) ∨ (∃ c d, i = .tick c d) ∨
      ∃ d, i = .edge d ∧ InPhase s .transmittingStop) ∧
    (t.dat ≠ s.dat → i = .init ∨ i = .rxon ∨ i = .rxoff ∨ (∃ b, i = .send b) ∨ (∃ c d, i = .tick c d) ∨
      ∃ d, i = .edge d ∧ (InPhase s .transmittingData ∨ InPhase s .transmittingParity ∨
        InPhase s .transmittingStop)) ∧
    (t.result ≠ s.result → i = .busy ∨ i = .avail ∨ i = .getb)

/-- 60_exceptions.md R200, R202, R208: a stimulus that runs outside Error leaves Error exactly when it detects one of
the six error kinds, and then it changes no line, no index, no slot and no host register, and retries nothing. -/
def Obligations.ErrorIsEnteredExactlyOnDetection : Prop :=
  ∀ i s t, Live s → exec i s = .next t → ¬ InPhase s .error →
    (InPhase t .error ↔ (detectedError i s).isSome = true) ∧
    (InPhase t .error → t.clk = s.clk ∧ t.dat = s.dat ∧ t.rxbuf = s.rxbuf ∧ t.head = s.head ∧ t.tail = s.tail ∧
      t.shift = s.shift ∧ t.bitcnt = s.bitcnt ∧ t.pending = s.pending ∧ t.hostPhase = s.hostPhase ∧
      t.edgeEn = s.edgeEn ∧ t.recPhase = s.recPhase)

/-- 60_exceptions.md R203, R204: Error is left only by the second recovery tick, INIT or RXON, and always for Idle. -/
def Obligations.ErrorIsLeftOnlyByRecoveryOrHost : Prop :=
  ∀ i s t, exec i s = .next t → InPhase s .error → ¬ InPhase t .error →
    InPhase t .idle ∧ (i = .init ∨ i = .rxon ∨ ∃ c d, i = .tick c d ∧ s.recPhase = true)

/-- 70_reset_and_hazards.md R242: "No rule drives the clock line low while EDGE_EN = 1": whatever step leaves the clock
driven low where it was not, leaves edges disabled. -/
def Obligations.ClockIsPulledOnlyWithEdgesOff : Prop :=
  ∀ s t, step s = .next t → t.clk = { dir := true, lvl := false } → s.clk ≠ { dir := true, lvl := false } →
    t.edgeEn = false

/-- 10_state.md R31, 00_scope.md R9: no rule reads TIMER_PER, the `T_*` or HOST_PORT_BASE: outcomes from two states that
differ only there differ only there. -/
def Obligations.TimingIsReadByNoRule : Prop :=
  ∀ s t, forgetTiming s = forgetTiming t → SameButTiming (step s) (step t)

/-- 60_exceptions.md R207: an edge and the last bark tick in AwaitingAck may come in either order, with different
outcomes: the send goes on, or it ends in Error. -/
def Obligations.EitherOrderOfAckAndBark : Prop :=
  ∀ s c d, AcceptsEdge s .awaitingAck → s.timerEn = true → s.bark = 1 →
    (∃ t, exec (.edge false) s = .next t ∧ InPhase t .awaitingIdle) ∧
    (∃ t u, exec (.tick c d) s = .next t ∧ InPhase t .error ∧ exec (.edge false) t = .next u ∧ InPhase u .error)

/-! ## Invariants -/

/-- The invariant every step keeps (10_state.md R42, 20_memory.md R50, R56, 70_reset_and_hazards.md R242). -/
def Obligations.StepKeepsCoherence : Prop := ∀ s t, Coherent s → step s = .next t → Coherent t

/-- The invariant holds after power-on, for all legal parameters and any agenda. -/
def Obligations.PowerOnIsCoherent : Prop :=
  ∀ p turns, p.wellFormed = true → Coherent { State.powerOn p with agenda := turns }

/-- From a coherent state with FAULT = none every turn has a next state, and none records F_BAD_STATE: the codes of
10_state.md R21 and R24 called unreachable are (10_state.md R42 item 1). -/
def Obligations.CoherentStateAlwaysSteps : Prop :=
  ∀ s, Coherent s → Live s → ∃ t, step s = .next t ∧ t.fault ≠ some .badState

/-- 10_state.md R42 items 1 to 6 in every reachable state with FAULT = none. -/
def Obligations.ReachableStatesKeepControl : Prop :=
  ∀ p s, p.wellFormed = true → Reachable p s → s.fault = none →
    s.state.toNat ≤ 10 ∧ s.bitcnt.toNat ≤ 8 ∧
    (¬ InPhase s .error → s.recPhase = false) ∧
    (InWatched s → 1 ≤ s.bark ∧ s.timerEn = true) ∧
    (InPhase s .requestingSend → s.timerEn = true ∧ s.edgeEn = false ∧ s.hostPhase = 2) ∧
    (InPhase s .awaitingIdle → s.timerEn = true ∧ 1 ≤ s.idlecnt) ∧
    (InPhase s .error → s.timerEn = true)

/-- 10_state.md R42 item 8 is no consequence of the rules: RXOFF in the recovery hold releases the data line
(42_host_api.md R162), so a reachable state with FAULT = none has STATE = Error, REC_PHASE = 1 and DAT_DIR = 0
(log entry 9). -/
def Obligations.RecoveryHoldMayReleaseData : Prop :=
  ∃ s, Reachable Params.vectors s ∧ s.fault = none ∧ InPhase s .error ∧ s.recPhase = true ∧ s.dat.dir = false

/-! ## The receive buffer -/

/-- 20_memory.md R55: a push raises the readable count by 1 modulo CAP and leaves TAIL. -/
def Obligations.PushRaisesCountModuloCap : Prop :=
  ∀ b s, s.head < s.params.cap → s.tail < s.params.cap →
    ∃ t, pushByte b s = .next t ∧ t.tail = s.tail ∧ unreadCount t = (unreadCount s + 1) % s.params.cap ∧
      unreadCount s ≤ s.params.cap - 1

/-- 20_memory.md R62, R56: when AVAIL returns 1 in a coherent state, GETB returns the byte a push wrote into slot
TAIL. -/
def Obligations.AvailableByteIsReturned : Prop :=
  ∀ s t, Coherent s → AcceptsCommand s → exec .avail s = .next t → t.result = .bit true →
    ∃ b u, Memory.read s.rxbuf s.tail = some b ∧ exec .getb t = .next u ∧ u.result = .byte b

/-- 20_memory.md R57, 40_edge_engine.md R113: whole frames of at most CAP - 1 bytes received into an empty buffer are
drained in the order they were received, and leave the buffer empty. -/
def Obligations.FramesAreDrainedInOrder : Prop :=
  ∀ s bs, Coherent s → AcceptsCommand s → s.edgeEn = true → InPhase s .idle → s.head = s.tail →
    bs.length ≤ s.params.cap - 1 →
    ∃ t u, execAll (bs.flatMap rxFrame) s = .next t ∧ drain (bs.length + 1) t = (bs, .next u) ∧ u.head = u.tail

/-- 20_memory.md R57: after CAP whole frames into an empty buffer it reads as empty, and after CAP + 1 exactly the last
byte is readable. -/
def Obligations.OverflowKeepsOnlyTheNewest : Prop :=
  ∀ s bs b, Coherent s → AcceptsCommand s → s.edgeEn = true → InPhase s .idle → s.head = s.tail →
    bs.length = s.params.cap →
    (∃ t, execAll (bs.flatMap rxFrame) s = .next t ∧ t.head = t.tail) ∧
    (∃ t u, execAll ((bs ++ [b]).flatMap rxFrame) s = .next t ∧ drain 2 t = ([b], .next u) ∧ u.head = u.tail)

/-! ## Whole frames -/

/-- 40_edge_engine.md R113: the eleven edges of a receive frame, and a start sample of 1. -/
def Obligations.ReceiveFrame : Prop :=
  ∀ s b p stop, AcceptsEdge s .idle → s.recPhase = false → s.head < s.params.cap →
    (∃ t, execAll (rxFrameWith b p stop) s = .next t ∧
      ((bitXor b ^^ p) = true ∧ stop = true →
        InPhase t .idle ∧ t.timerEn = false ∧ t.head = (s.head + 1) % s.params.cap ∧ t.tail = s.tail ∧
        Memory.read t.rxbuf s.head = some b ∧
        ∀ slot, slot ≠ s.head → Memory.read t.rxbuf slot = Memory.read s.rxbuf slot) ∧
      (¬ ((bitXor b ^^ p) = true ∧ stop = true) →
        InPhase t .error ∧ t.timerEn = true ∧ t.head = s.head ∧ t.tail = s.tail ∧ t.rxbuf = s.rxbuf)) ∧
    (∃ t, exec (.edge true) s = .next t ∧ InPhase t .error)

/-- 40_edge_engine.md R114: the eleven edges of a transmit frame, whatever is sampled on the first ten. -/
def Obligations.TransmitFrame : Prop :=
  ∀ s b ds, AcceptsEdge s .transmittingData → s.shift = b → s.bitcnt = 8 → s.parity = false → s.recPhase = false →
    ds.length = 10 →
    drivenLevels ds s = [some (b.getLsbD 0), some (b.getLsbD 1), some (b.getLsbD 2), some (b.getLsbD 3),
      some (b.getLsbD 4), some (b.getLsbD 5), some (b.getLsbD 6), some (b.getLsbD 7), some (!bitXor b), none] ∧
    ∃ t, execAll (edges ds) s = .next t ∧ InPhase t .awaitingAck ∧ t.dat = { dir := false, lvl := true } ∧
      t.clk.dir = false ∧
      (∃ u, exec (.edge false) t = .next u ∧ InPhase u .awaitingIdle) ∧
      (∃ u, exec (.edge true) t = .next u ∧ InPhase u .error)

/-- 40_edge_engine.md R115: the levels a transmit frame drives on its first nine edges, with a start and a stop bit,
are received as the byte sent. -/
def Obligations.TransmittedFrameIsReceived : Prop :=
  ∀ s r b ds, AcceptsEdge s .transmittingData → s.shift = b → s.bitcnt = 8 → s.parity = false → ds.length = 9 →
    AcceptsEdge r .idle → r.head < r.params.cap →
    ∃ t, execAll (.edge false :: (edges ((drivenLevels ds s).map (·.getD true)) ++ [.edge true])) r = .next t ∧
      InPhase t .idle ∧ t.head = (r.head + 1) % r.params.cap ∧ Memory.read t.rxbuf r.head = some b

/-! ## Bounded recovery -/

/-- 41_timer_controller.md R134, R139: a watched state with BARK = n + 1 stays as it is for n ticks without an edge and
reaches Error at the next one. -/
def Obligations.BarkExpiresExactly : Prop :=
  ∀ s cds n cd, Live s → s.timerEn = true → InWatched s → Sound s → s.bark = n + 1 → cds.length ≤ n →
    execAll (ticks cds) s = .next { s with bark := n + 1 - cds.length } ∧
    (cds.length = n → execAll (ticks (cds ++ [cd])) s = .next { s with bark := 0, state := 10 })

/-- 41_timer_controller.md R136, R137, R139, 70_reset_and_hazards.md R243: from Error, recovery takes exactly two ticks,
whatever edges arrive before and between them, and ends in Idle with reception enabled, whatever EDGE_EN was. -/
def Obligations.ErrorRecoversInTwoTicks : Prop :=
  ∀ s ds es c d e f, Live s → s.timerEn = true → InPhase s .error → s.recPhase = false →
    ∃ t u, execAll (edges ds ++ .tick c d :: edges es) s = .next t ∧ InPhase t .error ∧
      exec (.tick e f) t = .next u ∧ InPhase u .idle ∧ u.edgeEn = true ∧ u.timerEn = false ∧ u.recPhase = false ∧
      u.clk.dir = false ∧ u.dat.dir = false ∧ u.shift = 0x00 ∧ u.bitcnt = 0 ∧ u.parity = false ∧
      u.rxbuf = s.rxbuf ∧ u.head = s.head ∧ u.tail = s.tail ∧ u.pending = s.pending

/-- 41_timer_controller.md R139: from a coherent state with the timer armed, whatever the ticks sample, the block
reaches Idle within 2^CNT_W + 3 ticks if no edge comes. -/
def Obligations.TicksAloneReachIdle : Prop :=
  ∀ (s : State) (cds : List (Bool × Bool)), Coherent s → Live s → s.timerEn = true → 2 ^ s.params.cntW + 3 ≤ cds.length →
    ∃ n t, n ≤ 2 ^ s.params.cntW + 3 ∧ execAll (ticks (cds.take n)) s = .next t ∧ InPhase t .idle

/-- 70_reset_and_hazards.md R248: in every run from a coherent state in which an armed timer eventually ticks and a
host step whose guard is enabled infinitely often is eventually taken, every SEND returns. The host step is assumed
taken at an instant at which its guard is enabled: the reading of strong fairness of log entry 21. -/
def Obligations.EverySendReturns : Prop :=
  ∀ st turn, Coherent (st 0) → IsRun st turn → TickFair st turn → HostStronglyFair st turn →
    ∀ n, ∃ m, n ≤ m ∧ HostReady (st m)
end

