-- ==== Sys2Proof/Laws/State.lean ====
section
/-! SUPPORT. One lemma per field per shared update of State, true by rfl, so that no proof unfolds a record update. -/

namespace Sys2Proof.Machine

/-! ## record -/

@[simp] theorem record_params (k : FaultKind) (s : State) : (record k s).params = s.params := rfl
@[simp] theorem record_state (k : FaultKind) (s : State) : (record k s).state = s.state := rfl
@[simp] theorem record_shift (k : FaultKind) (s : State) : (record k s).shift = s.shift := rfl
@[simp] theorem record_bitcnt (k : FaultKind) (s : State) : (record k s).bitcnt = s.bitcnt := rfl
@[simp] theorem record_parity (k : FaultKind) (s : State) : (record k s).parity = s.parity := rfl
@[simp] theorem record_pending (k : FaultKind) (s : State) : (record k s).pending = s.pending := rfl
@[simp] theorem record_bark (k : FaultKind) (s : State) : (record k s).bark = s.bark := rfl
@[simp] theorem record_idlecnt (k : FaultKind) (s : State) : (record k s).idlecnt = s.idlecnt := rfl
@[simp] theorem record_edgeEn (k : FaultKind) (s : State) : (record k s).edgeEn = s.edgeEn := rfl
@[simp] theorem record_timerEn (k : FaultKind) (s : State) : (record k s).timerEn = s.timerEn := rfl
@[simp] theorem record_timerPer (k : FaultKind) (s : State) : (record k s).timerPer = s.timerPer := rfl
@[simp] theorem record_recPhase (k : FaultKind) (s : State) : (record k s).recPhase = s.recPhase := rfl
@[simp] theorem record_clk (k : FaultKind) (s : State) : (record k s).clk = s.clk := rfl
@[simp] theorem record_dat (k : FaultKind) (s : State) : (record k s).dat = s.dat := rfl
@[simp] theorem record_rxbuf (k : FaultKind) (s : State) : (record k s).rxbuf = s.rxbuf := rfl
@[simp] theorem record_head (k : FaultKind) (s : State) : (record k s).head = s.head := rfl
@[simp] theorem record_tail (k : FaultKind) (s : State) : (record k s).tail = s.tail := rfl
@[simp] theorem record_hostPhase (k : FaultKind) (s : State) : (record k s).hostPhase = s.hostPhase := rfl
@[simp] theorem record_hostByte (k : FaultKind) (s : State) : (record k s).hostByte = s.hostByte := rfl
@[simp] theorem record_fault (k : FaultKind) (s : State) : (record k s).fault = some k := rfl
@[simp] theorem record_result (k : FaultKind) (s : State) : (record k s).result = s.result := rfl
@[simp] theorem record_agenda (k : FaultKind) (s : State) : (record k s).agenda = s.agenda := rfl

/-! ## enterError -/

@[simp] theorem enterError_params (s : State) : (enterError s).params = s.params := rfl
@[simp] theorem enterError_state (s : State) : (enterError s).state = ProtocolState.error.code := rfl
@[simp] theorem enterError_shift (s : State) : (enterError s).shift = s.shift := rfl
@[simp] theorem enterError_bitcnt (s : State) : (enterError s).bitcnt = s.bitcnt := rfl
@[simp] theorem enterError_parity (s : State) : (enterError s).parity = s.parity := rfl
@[simp] theorem enterError_pending (s : State) : (enterError s).pending = s.pending := rfl
@[simp] theorem enterError_bark (s : State) : (enterError s).bark = s.bark := rfl
@[simp] theorem enterError_idlecnt (s : State) : (enterError s).idlecnt = s.idlecnt := rfl
@[simp] theorem enterError_edgeEn (s : State) : (enterError s).edgeEn = s.edgeEn := rfl
@[simp] theorem enterError_timerEn (s : State) : (enterError s).timerEn = s.timerEn := rfl
@[simp] theorem enterError_timerPer (s : State) : (enterError s).timerPer = s.timerPer := rfl
@[simp] theorem enterError_recPhase (s : State) : (enterError s).recPhase = s.recPhase := rfl
@[simp] theorem enterError_clk (s : State) : (enterError s).clk = s.clk := rfl
@[simp] theorem enterError_dat (s : State) : (enterError s).dat = s.dat := rfl
@[simp] theorem enterError_rxbuf (s : State) : (enterError s).rxbuf = s.rxbuf := rfl
@[simp] theorem enterError_head (s : State) : (enterError s).head = s.head := rfl
@[simp] theorem enterError_tail (s : State) : (enterError s).tail = s.tail := rfl
@[simp] theorem enterError_hostPhase (s : State) : (enterError s).hostPhase = s.hostPhase := rfl
@[simp] theorem enterError_hostByte (s : State) : (enterError s).hostByte = s.hostByte := rfl
@[simp] theorem enterError_fault (s : State) : (enterError s).fault = s.fault := rfl
@[simp] theorem enterError_result (s : State) : (enterError s).result = s.result := rfl
@[simp] theorem enterError_agenda (s : State) : (enterError s).agenda = s.agenda := rfl

/-! ## startRecovery -/

@[simp] theorem startRecovery_params (s : State) : (startRecovery s).params = s.params := rfl
@[simp] theorem startRecovery_state (s : State) : (startRecovery s).state = s.state := rfl
@[simp] theorem startRecovery_shift (s : State) : (startRecovery s).shift = s.shift := rfl
@[simp] theorem startRecovery_bitcnt (s : State) : (startRecovery s).bitcnt = s.bitcnt := rfl
@[simp] theorem startRecovery_parity (s : State) : (startRecovery s).parity = s.parity := rfl
@[simp] theorem startRecovery_pending (s : State) : (startRecovery s).pending = s.pending := rfl
@[simp] theorem startRecovery_bark (s : State) : (startRecovery s).bark = s.bark := rfl
@[simp] theorem startRecovery_idlecnt (s : State) : (startRecovery s).idlecnt = s.idlecnt := rfl
@[simp] theorem startRecovery_edgeEn (s : State) : (startRecovery s).edgeEn = false := rfl
@[simp] theorem startRecovery_timerEn (s : State) : (startRecovery s).timerEn = true := rfl
@[simp] theorem startRecovery_timerPer (s : State) : (startRecovery s).timerPer = perRecovery := rfl
@[simp] theorem startRecovery_recPhase (s : State) : (startRecovery s).recPhase = true := rfl
@[simp] theorem startRecovery_clk (s : State) : (startRecovery s).clk = s.clk.drive false := rfl
@[simp] theorem startRecovery_dat (s : State) : (startRecovery s).dat = s.dat.drive false := rfl
@[simp] theorem startRecovery_rxbuf (s : State) : (startRecovery s).rxbuf = s.rxbuf := rfl
@[simp] theorem startRecovery_head (s : State) : (startRecovery s).head = s.head := rfl
@[simp] theorem startRecovery_tail (s : State) : (startRecovery s).tail = s.tail := rfl
@[simp] theorem startRecovery_hostPhase (s : State) : (startRecovery s).hostPhase = s.hostPhase := rfl
@[simp] theorem startRecovery_hostByte (s : State) : (startRecovery s).hostByte = s.hostByte := rfl
@[simp] theorem startRecovery_fault (s : State) : (startRecovery s).fault = s.fault := rfl
@[simp] theorem startRecovery_result (s : State) : (startRecovery s).result = s.result := rfl
@[simp] theorem startRecovery_agenda (s : State) : (startRecovery s).agenda = s.agenda := rfl

/-! ## endRecovery -/

@[simp] theorem endRecovery_params (s : State) : (endRecovery s).params = s.params := rfl
@[simp] theorem endRecovery_state (s : State) : (endRecovery s).state = ProtocolState.idle.code := rfl
@[simp] theorem endRecovery_shift (s : State) : (endRecovery s).shift = 0x00 := rfl
@[simp] theorem endRecovery_bitcnt (s : State) : (endRecovery s).bitcnt = 0 := rfl
@[simp] theorem endRecovery_parity (s : State) : (endRecovery s).parity = false := rfl
@[simp] theorem endRecovery_pending (s : State) : (endRecovery s).pending = s.pending := rfl
@[simp] theorem endRecovery_bark (s : State) : (endRecovery s).bark = s.bark := rfl
@[simp] theorem endRecovery_idlecnt (s : State) : (endRecovery s).idlecnt = s.idlecnt := rfl
@[simp] theorem endRecovery_edgeEn (s : State) : (endRecovery s).edgeEn = true := rfl
@[simp] theorem endRecovery_timerEn (s : State) : (endRecovery s).timerEn = false := rfl
@[simp] theorem endRecovery_timerPer (s : State) : (endRecovery s).timerPer = s.timerPer := rfl
@[simp] theorem endRecovery_recPhase (s : State) : (endRecovery s).recPhase = false := rfl
@[simp] theorem endRecovery_clk (s : State) : (endRecovery s).clk = s.clk.release := rfl
@[simp] theorem endRecovery_dat (s : State) : (endRecovery s).dat = s.dat.release := rfl
@[simp] theorem endRecovery_rxbuf (s : State) : (endRecovery s).rxbuf = s.rxbuf := rfl
@[simp] theorem endRecovery_head (s : State) : (endRecovery s).head = s.head := rfl
@[simp] theorem endRecovery_tail (s : State) : (endRecovery s).tail = s.tail := rfl
@[simp] theorem endRecovery_hostPhase (s : State) : (endRecovery s).hostPhase = s.hostPhase := rfl
@[simp] theorem endRecovery_hostByte (s : State) : (endRecovery s).hostByte = s.hostByte := rfl
@[simp] theorem endRecovery_fault (s : State) : (endRecovery s).fault = s.fault := rfl
@[simp] theorem endRecovery_result (s : State) : (endRecovery s).result = s.result := rfl
@[simp] theorem endRecovery_agenda (s : State) : (endRecovery s).agenda = s.agenda := rfl

/-! ## disableReception -/

@[simp] theorem disableReception_params (s : State) : (disableReception s).params = s.params := rfl
@[simp] theorem disableReception_state (s : State) : (disableReception s).state = s.state := rfl
@[simp] theorem disableReception_shift (s : State) : (disableReception s).shift = s.shift := rfl
@[simp] theorem disableReception_bitcnt (s : State) : (disableReception s).bitcnt = s.bitcnt := rfl
@[simp] theorem disableReception_parity (s : State) : (disableReception s).parity = s.parity := rfl
@[simp] theorem disableReception_pending (s : State) : (disableReception s).pending = s.pending := rfl
@[simp] theorem disableReception_bark (s : State) : (disableReception s).bark = s.bark := rfl
@[simp] theorem disableReception_idlecnt (s : State) : (disableReception s).idlecnt = s.idlecnt := rfl
@[simp] theorem disableReception_edgeEn (s : State) : (disableReception s).edgeEn = false := rfl
@[simp] theorem disableReception_timerEn (s : State) : (disableReception s).timerEn = s.timerEn := rfl
@[simp] theorem disableReception_timerPer (s : State) : (disableReception s).timerPer = s.timerPer := rfl
@[simp] theorem disableReception_recPhase (s : State) : (disableReception s).recPhase = s.recPhase := rfl
@[simp] theorem disableReception_clk (s : State) : (disableReception s).clk = s.clk.drive false := rfl
@[simp] theorem disableReception_dat (s : State) : (disableReception s).dat = s.dat.release := rfl
@[simp] theorem disableReception_rxbuf (s : State) : (disableReception s).rxbuf = s.rxbuf := rfl
@[simp] theorem disableReception_head (s : State) : (disableReception s).head = s.head := rfl
@[simp] theorem disableReception_tail (s : State) : (disableReception s).tail = s.tail := rfl
@[simp] theorem disableReception_hostPhase (s : State) : (disableReception s).hostPhase = s.hostPhase := rfl
@[simp] theorem disableReception_hostByte (s : State) : (disableReception s).hostByte = s.hostByte := rfl
@[simp] theorem disableReception_fault (s : State) : (disableReception s).fault = s.fault := rfl
@[simp] theorem disableReception_result (s : State) : (disableReception s).result = s.result := rfl
@[simp] theorem disableReception_agenda (s : State) : (disableReception s).agenda = s.agenda := rfl

/-! ## startSend -/

@[simp] theorem startSend_params (v : Byte) (s : State) : (startSend v s).params = s.params := rfl
@[simp] theorem startSend_state (v : Byte) (s : State) : (startSend v s).state = ProtocolState.requestingSend.code := rfl
@[simp] theorem startSend_shift (v : Byte) (s : State) : (startSend v s).shift = s.shift := rfl
@[simp] theorem startSend_bitcnt (v : Byte) (s : State) : (startSend v s).bitcnt = s.bitcnt := rfl
@[simp] theorem startSend_parity (v : Byte) (s : State) : (startSend v s).parity = s.parity := rfl
@[simp] theorem startSend_pending (v : Byte) (s : State) : (startSend v s).pending = v := rfl
@[simp] theorem startSend_bark (v : Byte) (s : State) : (startSend v s).bark = s.bark := rfl
@[simp] theorem startSend_idlecnt (v : Byte) (s : State) : (startSend v s).idlecnt = s.idlecnt := rfl
@[simp] theorem startSend_edgeEn (v : Byte) (s : State) : (startSend v s).edgeEn = false := rfl
@[simp] theorem startSend_timerEn (v : Byte) (s : State) : (startSend v s).timerEn = true := rfl
@[simp] theorem startSend_timerPer (v : Byte) (s : State) : (startSend v s).timerPer = perHandshake := rfl
@[simp] theorem startSend_recPhase (v : Byte) (s : State) : (startSend v s).recPhase = s.recPhase := rfl
@[simp] theorem startSend_clk (v : Byte) (s : State) : (startSend v s).clk = s.clk.drive false := rfl
@[simp] theorem startSend_dat (v : Byte) (s : State) : (startSend v s).dat = s.dat.release := rfl
@[simp] theorem startSend_rxbuf (v : Byte) (s : State) : (startSend v s).rxbuf = s.rxbuf := rfl
@[simp] theorem startSend_head (v : Byte) (s : State) : (startSend v s).head = s.head := rfl
@[simp] theorem startSend_tail (v : Byte) (s : State) : (startSend v s).tail = s.tail := rfl
@[simp] theorem startSend_hostPhase (v : Byte) (s : State) : (startSend v s).hostPhase = s.hostPhase := rfl
@[simp] theorem startSend_hostByte (v : Byte) (s : State) : (startSend v s).hostByte = s.hostByte := rfl
@[simp] theorem startSend_fault (v : Byte) (s : State) : (startSend v s).fault = s.fault := rfl
@[simp] theorem startSend_result (v : Byte) (s : State) : (startSend v s).result = s.result := rfl
@[simp] theorem startSend_agenda (v : Byte) (s : State) : (startSend v s).agenda = s.agenda := rfl

/-! ## tickIdle -/

@[simp] theorem tickIdle_params (s : State) : (tickIdle s).params = s.params := rfl
@[simp] theorem tickIdle_state (s : State) : (tickIdle s).state = s.state := rfl
@[simp] theorem tickIdle_shift (s : State) : (tickIdle s).shift = s.shift := rfl
@[simp] theorem tickIdle_bitcnt (s : State) : (tickIdle s).bitcnt = s.bitcnt := rfl
@[simp] theorem tickIdle_parity (s : State) : (tickIdle s).parity = s.parity := rfl
@[simp] theorem tickIdle_pending (s : State) : (tickIdle s).pending = s.pending := rfl
@[simp] theorem tickIdle_bark (s : State) : (tickIdle s).bark = s.bark := rfl
@[simp] theorem tickIdle_idlecnt (s : State) : (tickIdle s).idlecnt = s.idlecnt := rfl
@[simp] theorem tickIdle_edgeEn (s : State) : (tickIdle s).edgeEn = s.edgeEn := rfl
@[simp] theorem tickIdle_timerEn (s : State) : (tickIdle s).timerEn = false := rfl
@[simp] theorem tickIdle_timerPer (s : State) : (tickIdle s).timerPer = s.timerPer := rfl
@[simp] theorem tickIdle_recPhase (s : State) : (tickIdle s).recPhase = false := rfl
@[simp] theorem tickIdle_clk (s : State) : (tickIdle s).clk = s.clk := rfl
@[simp] theorem tickIdle_dat (s : State) : (tickIdle s).dat = s.dat := rfl
@[simp] theorem tickIdle_rxbuf (s : State) : (tickIdle s).rxbuf = s.rxbuf := rfl
@[simp] theorem tickIdle_head (s : State) : (tickIdle s).head = s.head := rfl
@[simp] theorem tickIdle_tail (s : State) : (tickIdle s).tail = s.tail := rfl
@[simp] theorem tickIdle_hostPhase (s : State) : (tickIdle s).hostPhase = s.hostPhase := rfl
@[simp] theorem tickIdle_hostByte (s : State) : (tickIdle s).hostByte = s.hostByte := rfl
@[simp] theorem tickIdle_fault (s : State) : (tickIdle s).fault = s.fault := rfl
@[simp] theorem tickIdle_result (s : State) : (tickIdle s).result = s.result := rfl
@[simp] theorem tickIdle_agenda (s : State) : (tickIdle s).agenda = s.agenda := rfl

/-! ## tickRequestingSend -/

@[simp] theorem tickRequestingSend_params (s : State) : (tickRequestingSend s).params = s.params := rfl
@[simp] theorem tickRequestingSend_state (s : State) : (tickRequestingSend s).state = ProtocolState.transmittingData.code := rfl
@[simp] theorem tickRequestingSend_shift (s : State) : (tickRequestingSend s).shift = s.pending := rfl
@[simp] theorem tickRequestingSend_bitcnt (s : State) : (tickRequestingSend s).bitcnt = 8 := rfl
@[simp] theorem tickRequestingSend_parity (s : State) : (tickRequestingSend s).parity = false := rfl
@[simp] theorem tickRequestingSend_pending (s : State) : (tickRequestingSend s).pending = s.pending := rfl
@[simp] theorem tickRequestingSend_bark (s : State) : (tickRequestingSend s).bark = s.params.barkRts := rfl
@[simp] theorem tickRequestingSend_idlecnt (s : State) : (tickRequestingSend s).idlecnt = s.idlecnt := rfl
@[simp] theorem tickRequestingSend_edgeEn (s : State) : (tickRequestingSend s).edgeEn = true := rfl
@[simp] theorem tickRequestingSend_timerEn (s : State) : (tickRequestingSend s).timerEn = true := rfl
@[simp] theorem tickRequestingSend_timerPer (s : State) : (tickRequestingSend s).timerPer = perWatchdog := rfl
@[simp] theorem tickRequestingSend_recPhase (s : State) : (tickRequestingSend s).recPhase = s.recPhase := rfl
@[simp] theorem tickRequestingSend_clk (s : State) : (tickRequestingSend s).clk = s.clk.release := rfl
@[simp] theorem tickRequestingSend_dat (s : State) : (tickRequestingSend s).dat = s.dat.drive false := rfl
@[simp] theorem tickRequestingSend_rxbuf (s : State) : (tickRequestingSend s).rxbuf = s.rxbuf := rfl
@[simp] theorem tickRequestingSend_head (s : State) : (tickRequestingSend s).head = s.head := rfl
@[simp] theorem tickRequestingSend_tail (s : State) : (tickRequestingSend s).tail = s.tail := rfl
@[simp] theorem tickRequestingSend_hostPhase (s : State) : (tickRequestingSend s).hostPhase = s.hostPhase := rfl
@[simp] theorem tickRequestingSend_hostByte (s : State) : (tickRequestingSend s).hostByte = s.hostByte := rfl
@[simp] theorem tickRequestingSend_fault (s : State) : (tickRequestingSend s).fault = s.fault := rfl
@[simp] theorem tickRequestingSend_result (s : State) : (tickRequestingSend s).result = s.result := rfl
@[simp] theorem tickRequestingSend_agenda (s : State) : (tickRequestingSend s).agenda = s.agenda := rfl

/-! ## takeStimulus -/

@[simp] theorem takeStimulus_params (s : State) (rest : List Turn) : (takeStimulus s rest).params = s.params := rfl
@[simp] theorem takeStimulus_state (s : State) (rest : List Turn) : (takeStimulus s rest).state = s.state := rfl
@[simp] theorem takeStimulus_shift (s : State) (rest : List Turn) : (takeStimulus s rest).shift = s.shift := rfl
@[simp] theorem takeStimulus_bitcnt (s : State) (rest : List Turn) : (takeStimulus s rest).bitcnt = s.bitcnt := rfl
@[simp] theorem takeStimulus_parity (s : State) (rest : List Turn) : (takeStimulus s rest).parity = s.parity := rfl
@[simp] theorem takeStimulus_pending (s : State) (rest : List Turn) : (takeStimulus s rest).pending = s.pending := rfl
@[simp] theorem takeStimulus_bark (s : State) (rest : List Turn) : (takeStimulus s rest).bark = s.bark := rfl
@[simp] theorem takeStimulus_idlecnt (s : State) (rest : List Turn) : (takeStimulus s rest).idlecnt = s.idlecnt := rfl
@[simp] theorem takeStimulus_edgeEn (s : State) (rest : List Turn) : (takeStimulus s rest).edgeEn = s.edgeEn := rfl
@[simp] theorem takeStimulus_timerEn (s : State) (rest : List Turn) : (takeStimulus s rest).timerEn = s.timerEn := rfl
@[simp] theorem takeStimulus_timerPer (s : State) (rest : List Turn) : (takeStimulus s rest).timerPer = s.timerPer := rfl
@[simp] theorem takeStimulus_recPhase (s : State) (rest : List Turn) : (takeStimulus s rest).recPhase = s.recPhase := rfl
@[simp] theorem takeStimulus_clk (s : State) (rest : List Turn) : (takeStimulus s rest).clk = s.clk := rfl
@[simp] theorem takeStimulus_dat (s : State) (rest : List Turn) : (takeStimulus s rest).dat = s.dat := rfl
@[simp] theorem takeStimulus_rxbuf (s : State) (rest : List Turn) : (takeStimulus s rest).rxbuf = s.rxbuf := rfl
@[simp] theorem takeStimulus_head (s : State) (rest : List Turn) : (takeStimulus s rest).head = s.head := rfl
@[simp] theorem takeStimulus_tail (s : State) (rest : List Turn) : (takeStimulus s rest).tail = s.tail := rfl
@[simp] theorem takeStimulus_hostPhase (s : State) (rest : List Turn) : (takeStimulus s rest).hostPhase = s.hostPhase := rfl
@[simp] theorem takeStimulus_hostByte (s : State) (rest : List Turn) : (takeStimulus s rest).hostByte = s.hostByte := rfl
@[simp] theorem takeStimulus_fault (s : State) (rest : List Turn) : (takeStimulus s rest).fault = s.fault := rfl
@[simp] theorem takeStimulus_result (s : State) (rest : List Turn) : (takeStimulus s rest).result = .nothing := rfl
@[simp] theorem takeStimulus_agenda (s : State) (rest : List Turn) : (takeStimulus s rest).agenda = rest := rfl

/-! ## takeHostStep -/

@[simp] theorem takeHostStep_params (s : State) (rest : List Turn) : (takeHostStep s rest).params = s.params := rfl
@[simp] theorem takeHostStep_state (s : State) (rest : List Turn) : (takeHostStep s rest).state = s.state := rfl
@[simp] theorem takeHostStep_shift (s : State) (rest : List Turn) : (takeHostStep s rest).shift = s.shift := rfl
@[simp] theorem takeHostStep_bitcnt (s : State) (rest : List Turn) : (takeHostStep s rest).bitcnt = s.bitcnt := rfl
@[simp] theorem takeHostStep_parity (s : State) (rest : List Turn) : (takeHostStep s rest).parity = s.parity := rfl
@[simp] theorem takeHostStep_pending (s : State) (rest : List Turn) : (takeHostStep s rest).pending = s.pending := rfl
@[simp] theorem takeHostStep_bark (s : State) (rest : List Turn) : (takeHostStep s rest).bark = s.bark := rfl
@[simp] theorem takeHostStep_idlecnt (s : State) (rest : List Turn) : (takeHostStep s rest).idlecnt = s.idlecnt := rfl
@[simp] theorem takeHostStep_edgeEn (s : State) (rest : List Turn) : (takeHostStep s rest).edgeEn = s.edgeEn := rfl
@[simp] theorem takeHostStep_timerEn (s : State) (rest : List Turn) : (takeHostStep s rest).timerEn = s.timerEn := rfl
@[simp] theorem takeHostStep_timerPer (s : State) (rest : List Turn) : (takeHostStep s rest).timerPer = s.timerPer := rfl
@[simp] theorem takeHostStep_recPhase (s : State) (rest : List Turn) : (takeHostStep s rest).recPhase = s.recPhase := rfl
@[simp] theorem takeHostStep_clk (s : State) (rest : List Turn) : (takeHostStep s rest).clk = s.clk := rfl
@[simp] theorem takeHostStep_dat (s : State) (rest : List Turn) : (takeHostStep s rest).dat = s.dat := rfl
@[simp] theorem takeHostStep_rxbuf (s : State) (rest : List Turn) : (takeHostStep s rest).rxbuf = s.rxbuf := rfl
@[simp] theorem takeHostStep_head (s : State) (rest : List Turn) : (takeHostStep s rest).head = s.head := rfl
@[simp] theorem takeHostStep_tail (s : State) (rest : List Turn) : (takeHostStep s rest).tail = s.tail := rfl
@[simp] theorem takeHostStep_hostPhase (s : State) (rest : List Turn) : (takeHostStep s rest).hostPhase = s.hostPhase := rfl
@[simp] theorem takeHostStep_hostByte (s : State) (rest : List Turn) : (takeHostStep s rest).hostByte = s.hostByte := rfl
@[simp] theorem takeHostStep_fault (s : State) (rest : List Turn) : (takeHostStep s rest).fault = s.fault := rfl
@[simp] theorem takeHostStep_result (s : State) (rest : List Turn) : (takeHostStep s rest).result = s.result := rfl
@[simp] theorem takeHostStep_agenda (s : State) (rest : List Turn) : (takeHostStep s rest).agenda = rest := rfl

/-! ## requestRecovery writes TIMER_EN and TIMER_PER alone (40_edge_engine.md R112) -/

@[simp] theorem requestRecovery_params (s : State) : (requestRecovery s).params = s.params := by
  unfold requestRecovery; split <;> rfl
@[simp] theorem requestRecovery_state (s : State) : (requestRecovery s).state = s.state := by
  unfold requestRecovery; split <;> rfl
@[simp] theorem requestRecovery_shift (s : State) : (requestRecovery s).shift = s.shift := by
  unfold requestRecovery; split <;> rfl
@[simp] theorem requestRecovery_bitcnt (s : State) : (requestRecovery s).bitcnt = s.bitcnt := by
  unfold requestRecovery; split <;> rfl
@[simp] theorem requestRecovery_parity (s : State) : (requestRecovery s).parity = s.parity := by
  unfold requestRecovery; split <;> rfl
@[simp] theorem requestRecovery_pending (s : State) : (requestRecovery s).pending = s.pending := by
  unfold requestRecovery; split <;> rfl
@[simp] theorem requestRecovery_bark (s : State) : (requestRecovery s).bark = s.bark := by
  unfold requestRecovery; split <;> rfl
@[simp] theorem requestRecovery_idlecnt (s : State) : (requestRecovery s).idlecnt = s.idlecnt := by
  unfold requestRecovery; split <;> rfl
@[simp] theorem requestRecovery_edgeEn (s : State) : (requestRecovery s).edgeEn = s.edgeEn := by
  unfold requestRecovery; split <;> rfl
@[simp] theorem requestRecovery_recPhase (s : State) : (requestRecovery s).recPhase = s.recPhase := by
  unfold requestRecovery; split <;> rfl
@[simp] theorem requestRecovery_clk (s : State) : (requestRecovery s).clk = s.clk := by
  unfold requestRecovery; split <;> rfl
@[simp] theorem requestRecovery_dat (s : State) : (requestRecovery s).dat = s.dat := by
  unfold requestRecovery; split <;> rfl
@[simp] theorem requestRecovery_rxbuf (s : State) : (requestRecovery s).rxbuf = s.rxbuf := by
  unfold requestRecovery; split <;> rfl
@[simp] theorem requestRecovery_head (s : State) : (requestRecovery s).head = s.head := by
  unfold requestRecovery; split <;> rfl
@[simp] theorem requestRecovery_tail (s : State) : (requestRecovery s).tail = s.tail := by
  unfold requestRecovery; split <;> rfl
@[simp] theorem requestRecovery_hostPhase (s : State) : (requestRecovery s).hostPhase = s.hostPhase := by
  unfold requestRecovery; split <;> rfl
@[simp] theorem requestRecovery_hostByte (s : State) : (requestRecovery s).hostByte = s.hostByte := by
  unfold requestRecovery; split <;> rfl
@[simp] theorem requestRecovery_fault (s : State) : (requestRecovery s).fault = s.fault := by
  unfold requestRecovery; split <;> rfl
@[simp] theorem requestRecovery_result (s : State) : (requestRecovery s).result = s.result := by
  unfold requestRecovery; split <;> rfl
@[simp] theorem requestRecovery_agenda (s : State) : (requestRecovery s).agenda = s.agenda := by
  unfold requestRecovery; split <;> rfl

/-! ## The line primitives -/

@[simp] theorem drive_dir (v : Bool) (l : Line) : (l.drive v).dir = true := rfl
@[simp] theorem drive_lvl (v : Bool) (l : Line) : (l.drive v).lvl = v := rfl
@[simp] theorem release_dir (l : Line) : l.release.dir = false := rfl
@[simp] theorem release_lvl (l : Line) : l.release.lvl = l.lvl := rfl

end Sys2Proof.Machine
end

