-- ==== Sys2Proof/Laws/Ops.lean ====
section
/-! SUPPORT. One spec lemma per shared operation: the receive buffer's memory, the guards, push and pop, the codes of
STATE, and the inversion of the meanings' guards. -/

namespace Sys2Proof.Machine

/-! ## Memory -/

@[simp] theorem Memory.read_nil (slot : Nat) : Memory.read [] slot = none := rfl

theorem Memory.read_cons (k : Nat) (v : Byte) (m : Memory) (slot : Nat) :
    Memory.read ((k, v) :: m) slot = if k = slot then some v else Memory.read m slot := rfl

/-- A read after a write of the same slot gives the byte written. -/
@[simp] theorem Memory.read_write_same (m : Memory) (slot : Nat) (b : Byte) :
    Memory.read (Memory.write m slot b) slot = some b := by
  induction m with
  | nil => simp [Memory.write, Memory.read]
  | cons c m ih =>
    obtain ⟨k, v⟩ := c
    unfold Memory.write
    split
    · simp [Memory.read]
    · split
      · simp [Memory.read]
      · have hk : k ≠ slot := fun h => by simp_all
        simp [Memory.read, hk, ih]

/-- A write leaves every other slot alone. -/
theorem Memory.read_write_other (m : Memory) (slot other : Nat) (b : Byte) (h : other ≠ slot) :
    Memory.read (Memory.write m slot b) other = Memory.read m other := by
  induction m with
  | nil => simp [Memory.write, Memory.read, Ne.symm h]
  | cons c m ih =>
    obtain ⟨k, v⟩ := c
    unfold Memory.write
    split
    · simp [Memory.read, Ne.symm h]
    · split
      · rename_i hk
        subst hk
        simp [Memory.read, Ne.symm h]
      · simp [Memory.read, ih]

/-- The slots a write lists. -/
theorem Memory.mem_write {m : Memory} {slot : Nat} {b : Byte} {c : Host.Cell} (h : c ∈ Memory.write m slot b) :
    c = (slot, b) ∨ c ∈ m := by
  induction m with
  | nil => simpa [Memory.write] using h
  | cons d m ih =>
    obtain ⟨k, v⟩ := d
    unfold Memory.write at h
    split at h
    · simpa using h
    · split at h
      · rcases List.mem_cons.mp h with h | h
        · exact .inl h
        · exact .inr (List.mem_cons_of_mem _ h)
      · rcases List.mem_cons.mp h with h | h
        · exact .inr (by simp [h])
        · exact (ih h).imp id (List.mem_cons_of_mem _)

/-- A write keeps the canonical form. -/
theorem Memory.wf_write {m : Memory} (slot : Nat) (b : Byte) (h : Memory.wf m) :
    Memory.wf (Memory.write m slot b) := by
  induction m with
  | nil => simp [Memory.write, Memory.wf]
  | cons d m ih =>
    obtain ⟨k, v⟩ := d
    obtain ⟨hk, hm⟩ := List.pairwise_cons.mp h
    unfold Memory.write
    split
    · rename_i hlt
      refine List.pairwise_cons.mpr ⟨fun c hc => ?_, h⟩
      rcases List.mem_cons.mp hc with rfl | hc
      · exact hlt
      · exact Nat.lt_trans hlt (hk c hc)
    · split
      · rename_i heq
        subst heq
        exact List.pairwise_cons.mpr ⟨hk, hm⟩
      · refine List.pairwise_cons.mpr ⟨fun c hc => ?_, ih hm⟩
        rcases Memory.mem_write hc with rfl | hc
        · show k < slot
          omega
        · exact hk c hc

/-- After power-on the memory has its canonical form. -/
theorem wf_reset : Memory.wf State.reset.rxbuf := List.Pairwise.nil

/-- In a canonical memory a listed cell is what the slot reads as. -/
theorem Memory.read_of_mem {m : Memory} (h : Memory.wf m) {c : Host.Cell} (hc : c ∈ m) :
    Memory.read m c.1 = some c.2 := by
  induction m with
  | nil => simp at hc
  | cons d m ih =>
    obtain ⟨k, v⟩ := d
    obtain ⟨hk, hm⟩ := List.pairwise_cons.mp h
    rcases List.mem_cons.mp hc with rfl | hc
    · simp [Memory.read]
    · have := hk c hc
      have hne : k ≠ c.1 := by simp at this; omega
      simp [Memory.read, hne, ih hm hc]

/-! ## The codes of STATE -/

@[simp] theorem ofCode_code (p : ProtocolState) : ProtocolState.ofCode p.code = some p := by cases p <;> rfl

theorem code_injective {p q : ProtocolState} (h : p.code = q.code) : p = q := by
  have := congrArg ProtocolState.ofCode h
  simpa using this

theorem ofCode_eq_some {v : BitVec 4} {p : ProtocolState} : ProtocolState.ofCode v = some p ↔ v = p.code := by
  constructor
  · revert v p
    intro v p h
    revert h
    revert v
    cases p <;> decide
  · rintro rfl
    exact ofCode_code p

theorem ofCode_eq_none {v : BitVec 4} : ProtocolState.ofCode v = none ↔ 11 ≤ v.toNat := by
  revert v
  decide

/-- The dispatch's view of STATE and the claims' view agree. -/
theorem phase_eq_some {s : State} {p : ProtocolState} : s.phase = some p ↔ InPhase s p := ofCode_eq_some

theorem phase_eq_none {s : State} : s.phase = none ↔ 11 ≤ s.state.toNat := ofCode_eq_none

/-- STATE is in W exactly when it holds the code of a watched protocol state. -/
theorem inWatched_iff {s : State} : InWatched s ↔ ∃ p, p.watched = true ∧ InPhase s p := by
  constructor
  · rintro (h | h | h | h | h | h | h)
    · exact ⟨.receivingData, rfl, h⟩
    · exact ⟨.receivingParity, rfl, h⟩
    · exact ⟨.receivingStop, rfl, h⟩
    · exact ⟨.transmittingData, rfl, h⟩
    · exact ⟨.transmittingParity, rfl, h⟩
    · exact ⟨.transmittingStop, rfl, h⟩
    · exact ⟨.awaitingAck, rfl, h⟩
  · rintro ⟨p, hp, h⟩
    have hs : s.state = p.code := h
    cases p <;> simp_all [ProtocolState.watched, InWatched, ProtocolState.code]

/-- The dispatch's view of a sound state: the arm it takes (60_exceptions.md R208 (4)). -/
theorem soundPhase_eq_some {s : State} {p : ProtocolState} : s.soundPhase = some p ↔ InPhase s p ∧ Sound s := by
  constructor
  · intro h
    unfold State.soundPhase at h
    split at h
    · cases h
    · rename_i q hq
      have hq := phase_eq_some.mp hq
      split at h
      · cases h
      · rename_i hb
        cases h
        have hs : s.state = p.code := hq
        refine ⟨hq, by rw [hs]; cases p <;> decide, fun hd => ?_⟩
        have hdata : p.dataState = true := by
          rcases hd with hd | hd <;> obtain rfl := code_injective (hs.symm.trans hd) <;> rfl
        have hbits : bitsRemain s.bitcnt = true := by simpa [hdata] using hb
        exact of_decide_eq_true hbits
  · rintro ⟨hp, -, hb⟩
    have hbits : p.dataState = true → bitsRemain s.bitcnt = true := by
      intro hd
      have : InPhase s .receivingData ∨ InPhase s .transmittingData := by
        cases p <;> first | exact .inl hp | exact .inr hp | cases hd
      exact decide_eq_true (hb this)
    have : (p.dataState && !bitsRemain s.bitcnt) = false := by
      cases hd : p.dataState
      · rfl
      · simp [hbits hd]
    simp [State.soundPhase, phase_eq_some.mpr hp, this]

/-- No arm is taken exactly in the states F_BAD_STATE is raised on. -/
theorem soundPhase_eq_none {s : State} : s.soundPhase = none ↔ ¬ Sound s := by
  constructor
  · intro h hs
    cases hp : s.phase with
    | none => exact absurd hs.1 (by have := phase_eq_none.mp hp; omega)
    | some p => simp [soundPhase_eq_some.mpr ⟨phase_eq_some.mp hp, hs⟩] at h
  · intro h
    cases hp : s.soundPhase with
    | none => rfl
    | some p => exact absurd (soundPhase_eq_some.mp hp).2 h

/-- Outside the data states BITCNT is not looked at. -/
theorem sound_of_phase {s : State} {p : ProtocolState} (hp : InPhase s p) (hd : p.dataState = false) : Sound s := by
  have hs : s.state = p.code := hp
  refine ⟨by rw [hs]; cases p <;> decide, fun h => ?_⟩
  rcases h with h | h <;> obtain rfl := code_injective (hs.symm.trans h) <;> cases hd

/-- In a coherent state no stimulus raises F_BAD_STATE. -/
theorem sound_of_coherent {s : State} (h : Coherent s) : Sound s :=
  ⟨h.2.1.1, fun hd => ⟨h.2.2.1 hd, h.2.1.2.1⟩⟩

/-! ## Guards -/

theorem whenLive_of_live {s : State} (h : Live s) (body : Out) : whenLive s body = body := by
  have hf : s.fault = none := h
  simp [whenLive, hf]

theorem whenLive_of_fault {s : State} {k : FaultKind} (h : s.fault = some k) (body : Out) :
    whenLive s body = k.stop := by
  simp [whenLive, h]

/-- A stop is never a next state. -/
theorem stop_ne_next (k : FaultKind) (t : State) : k.stop ≠ .next t := by cases k <;> simp [FaultKind.stop]

/-- A guarded body that answers a next state ran, from a state with FAULT = none. -/
theorem whenLive_next {s t : State} {body : Out} (h : whenLive s body = .next t) : Live s ∧ body = .next t := by
  unfold whenLive at h
  split at h
  · exact ⟨‹_›, h⟩
  · exact absurd h (stop_ne_next _ _)

theorem whenSound_of_phase {s : State} {p : ProtocolState} (hp : InPhase s p) (hs : Sound s)
    (body : ProtocolState → Out) : whenSound s body = body p := by
  simp [whenSound, soundPhase_eq_some.mpr ⟨hp, hs⟩]

theorem whenSound_of_unsound {s : State} (hs : ¬ Sound s) (body : ProtocolState → Out) :
    whenSound s body = .next (record .badState s) := by
  simp [whenSound, soundPhase_eq_none.mpr hs]

/-- All a check for F_BAD_STATE before a body can do. -/
theorem whenSound_cases (s : State) (body : ProtocolState → Out) :
    (∃ p, InPhase s p ∧ Sound s ∧ whenSound s body = body p) ∨
      (¬ Sound s ∧ whenSound s body = .next (record .badState s)) := by
  cases hp : s.soundPhase with
  | none =>
    have hs := soundPhase_eq_none.mp hp
    exact .inr ⟨hs, whenSound_of_unsound hs body⟩
  | some p =>
    obtain ⟨hp, hs⟩ := soundPhase_eq_some.mp hp
    exact .inl ⟨p, hp, hs, whenSound_of_phase hp hs body⟩

/-- A host command in a sound state runs its body. -/
theorem hostCommand_of_ready {s : State} (hl : Live s) (hr : HostReady s) (hs : Sound s) (body : Out) :
    hostCommand s body = body := by
  have hp : s.hostPhase = hostReady := hr
  obtain ⟨-, -, -, h⟩ | ⟨hn, -⟩ := whenSound_cases s (fun _ => body)
  · simp [hostCommand, whenLive_of_live hl, hp, h]
  · exact absurd hs hn

theorem hostCommand_of_unsound {s : State} (hl : Live s) (hr : HostReady s) (hs : ¬ Sound s) (body : Out) :
    hostCommand s body = .next (record .badState s) := by
  have hp : s.hostPhase = hostReady := hr
  simp [hostCommand, whenLive_of_live hl, hp, whenSound_of_unsound hs]

theorem hostCommand_of_blocked {s : State} (hl : Live s) (hr : ¬ HostReady s) (body : Out) :
    hostCommand s body = .next (record .hostBlocked s) := by
  have hp : ¬ s.hostPhase = hostReady := hr
  simp [hostCommand, whenLive_of_live hl, hp]

/-- A host command that answers a next state ran its body, raised F_BAD_STATE, or was refused with HOST_BLOCKED. -/
theorem hostCommand_next {s t : State} {body : Out} (h : hostCommand s body = .next t) :
    Live s ∧ ((HostReady s ∧ Sound s ∧ body = .next t) ∨ (HostReady s ∧ ¬ Sound s ∧ t = record .badState s) ∨
      (¬ HostReady s ∧ t = record .hostBlocked s)) := by
  obtain ⟨hl, h⟩ := whenLive_next h
  refine ⟨hl, ?_⟩
  split at h
  · obtain ⟨-, -, hs, hb⟩ | ⟨hs, hb⟩ := whenSound_cases s (fun _ => body)
    · exact .inl ⟨‹_›, hs, hb.symm.trans h⟩
    · exact .inr (.inl ⟨‹_›, hs, by simpa using h.symm.trans hb⟩)
  · exact .inr (.inr ⟨‹_›, by simpa using h.symm⟩)

/-! ## Push and pop -/

/-- All a push can do. -/
theorem pushByte_next {b : Byte} {s t : State} (h : pushByte b s = .next t) :
    s.head < s.params.cap ∧
      t = { s with rxbuf := Memory.write s.rxbuf s.head b, head := nextSlot s.params s.head } := by
  unfold pushByte at h
  split at h
  · exact ⟨‹_›, by simpa using h.symm⟩
  · cases h

/-- All a pop of a buffer that is not empty can do. -/
theorem popByte_next {s t : State} (h : popByte s = .next t) :
    s.tail < s.params.cap ∧
      t = { s with result := .byte (slotByte s.rxbuf s.tail), tail := nextSlot s.params s.tail } := by
  unfold popByte at h
  split at h
  · exact ⟨‹_›, by simpa using h.symm⟩
  · cases h

theorem pushByte_of_slot {b : Byte} {s : State} (h : s.head < s.params.cap) :
    pushByte b s = .next { s with rxbuf := Memory.write s.rxbuf s.head b, head := nextSlot s.params s.head } := by
  simp [pushByte, h]

theorem popByte_of_slot {s : State} (h : s.tail < s.params.cap) :
    popByte s =
      .next { s with result := .byte (slotByte s.rxbuf s.tail), tail := nextSlot s.params s.tail } := by
  simp [popByte, h]

/-- A slot something has written pops as the byte written. -/
theorem slotByte_of_read {m : Memory} {slot : Nat} {b : Byte} (h : Memory.read m slot = some b) :
    slotByte m slot = b := by
  simp [slotByte, h]

theorem nextSlot_lt {p : Params} (h : 0 < p.cap) (i : Nat) : nextSlot p i < p.cap := Nat.mod_lt _ h

/-! ## The edge and the tick -/

theorem execEdge_lost {d : Bool} {s : State} (hl : Live s) (he : s.edgeEn = false) :
    execEdge d s = .next s := by
  simp [execEdge, whenLive_of_live hl, he]

/-- An accepted edge in a sound state takes the arm of its protocol state. -/
theorem execEdge_taken {d : Bool} {s : State} {p : ProtocolState} (hl : Live s) (he : s.edgeEn = true)
    (hp : InPhase s p) (hs : Sound s) : execEdge d s = afterEdge (edgeArm d s p) := by
  simp [execEdge, whenLive_of_live hl, he, whenSound_of_phase hp hs]

theorem execEdge_of_unsound {d : Bool} {s : State} (hl : Live s) (he : s.edgeEn = true) (hs : ¬ Sound s) :
    execEdge d s = .next (record .badState s) := by
  simp [execEdge, whenLive_of_live hl, he, whenSound_of_unsound hs]

/-- An edge that answers a next state was lost, raised F_BAD_STATE, or ran its arm and then the recovery request. -/
theorem execEdge_next {d : Bool} {s t : State} (h : execEdge d s = .next t) :
    Live s ∧ ((s.edgeEn = false ∧ t = s) ∨
      (s.edgeEn = true ∧ ((¬ Sound s ∧ t = record .badState s) ∨
        ∃ p u, InPhase s p ∧ Sound s ∧ edgeArm d s p = .next u ∧ t = requestRecovery u))) := by
  obtain ⟨hl, h⟩ := whenLive_next h
  refine ⟨hl, ?_⟩
  split at h
  · refine .inr ⟨‹_›, ?_⟩
    obtain ⟨p, hp, hs, hb⟩ | ⟨hs, hb⟩ := whenSound_cases s (fun p => afterEdge (edgeArm d s p))
    · rw [hb] at h
      unfold afterEdge at h
      split at h
      · exact .inr ⟨p, _, hp, hs, ‹_›, by simpa using h.symm⟩
      · cases h
      · cases h
    · exact .inl ⟨hs, by simpa using h.symm.trans hb⟩
  · rename_i he
    exact .inl ⟨by simpa using he, by simpa using h.symm⟩

/-- A tick of the armed timer in a sound state takes the arm of its protocol state. -/
theorem execTick_taken {c d : Bool} {s : State} {p : ProtocolState} (hl : Live s) (ht : s.timerEn = true)
    (hp : InPhase s p) (hs : Sound s) : execTick c d s = .next (tickArm c d s p) := by
  simp [execTick, whenLive_of_live hl, ht, whenSound_of_phase hp hs]

theorem execTick_of_unsound {c d : Bool} {s : State} (hl : Live s) (ht : s.timerEn = true) (hs : ¬ Sound s) :
    execTick c d s = .next (record .badState s) := by
  simp [execTick, whenLive_of_live hl, ht, whenSound_of_unsound hs]

theorem execTick_disarmed {c d : Bool} {s : State} (hl : Live s) (ht : s.timerEn = false) :
    execTick c d s = .next (record .tickDisarmed s) := by
  simp [execTick, whenLive_of_live hl, ht]

/-- A tick that answers a next state was refused with TICK_DISARMED, raised F_BAD_STATE, or ran its arm. -/
theorem execTick_next {c d : Bool} {s t : State} (h : execTick c d s = .next t) :
    Live s ∧ ((s.timerEn = false ∧ t = record .tickDisarmed s) ∨
      (s.timerEn = true ∧ ((¬ Sound s ∧ t = record .badState s) ∨
        ∃ p, InPhase s p ∧ Sound s ∧ t = tickArm c d s p))) := by
  obtain ⟨hl, h⟩ := whenLive_next h
  refine ⟨hl, ?_⟩
  split at h
  · refine .inr ⟨‹_›, ?_⟩
    obtain ⟨p, hp, hs, hb⟩ | ⟨hs, hb⟩ := whenSound_cases s (fun p => .next (tickArm c d s p))
    · exact .inr ⟨p, hp, hs, by simpa using h.symm.trans hb⟩
    · exact .inl ⟨hs, by simpa using h.symm.trans hb⟩
  · rename_i ht
    exact .inl ⟨by simpa using ht, by simpa using h.symm⟩

/-- The recovery request does nothing outside Error. -/
theorem requestRecovery_of_not_error {s : State} (h : ¬ InPhase s .error) : requestRecovery s = s := by
  have : ¬ (s.state = ProtocolState.error.code ∧ s.recPhase = false) := fun hh => h hh.1
  simp [requestRecovery, this]

/-! ## The step -/

/-- All a step can do. -/
theorem step_next {s t : State} (h : step s = .next t) :
    Live s ∧ ((s.agenda = [] ∧ t = s) ∨
      (∃ rest, s.agenda = .hostStep :: rest ∧ t = hostInternal (takeHostStep s rest)) ∨
      (∃ w rest e, s.agenda = .stimulus w :: rest ∧ decode w = .error e ∧
        t = record (decodeFault e) (takeStimulus s rest)) ∨
      (∃ w rest i, s.agenda = .stimulus w :: rest ∧ decode w = .ok i ∧ exec i (takeStimulus s rest) = .next t)) := by
  obtain ⟨hl, h⟩ := whenLive_next h
  refine ⟨hl, ?_⟩
  split at h
  · exact .inl ⟨‹_›, by simpa using h.symm⟩
  · exact .inr (.inl ⟨_, ‹_›, by simpa using h.symm⟩)
  · split at h
    · exact .inr (.inr (.inr ⟨_, _, _, ‹_›, ‹_›, h⟩))
    · exact .inr (.inr (.inl ⟨_, _, _, ‹_›, ‹_›, by simpa using h.symm⟩))

end Sys2Proof.Machine
end

