-- ==== Sys2Proof/Laws/Exec.lean ====
section
/-! SUPPORT. What a stimulus can do, said once: every next state of exec, case by case. Claims about all stimuli take
these cases apart and unfold no meaning. -/

namespace Sys2Proof.Machine

/-- Every next state of an edge's arm (40_edge_engine.md R101 to R111), before the recovery request. -/
inductive EdgeOutcome (d : Bool) (s : State) : State → Prop where
  | startBit (hp : InPhase s .idle) (hd : d = false) :
      EdgeOutcome d s { s with
        state := ProtocolState.receivingData.code, shift := 0x00, bitcnt := 8, parity := false,
        bark := s.params.barkBit, timerEn := true, timerPer := perWatchdog }
  | badStart (hp : InPhase s .idle) (hd : d = true) : EdgeOutcome d s (enterError s)
  | receivedBit (hp : InPhase s .receivingData) (hb : 2 ≤ s.bitcnt.toNat ∧ s.bitcnt.toNat ≤ 8) :
      EdgeOutcome d s { s with
        shift := shiftIn d s.shift, parity := parityStep s.parity d, bitcnt := s.bitcnt - 1,
        bark := s.params.barkBit }
  | receivedLastBit (hp : InPhase s .receivingData) (hb : s.bitcnt = 1) :
      EdgeOutcome d s { s with
        shift := shiftIn d s.shift, parity := parityStep s.parity d, bitcnt := 0, bark := s.params.barkBit,
        state := ProtocolState.receivingParity.code }
  | goodParity (hp : InPhase s .receivingParity) (hd : parityStep s.parity d = true) :
      EdgeOutcome d s { s with
        parity := true, state := ProtocolState.receivingStop.code, bark := s.params.barkBit }
  | badParity (hp : InPhase s .receivingParity) (hd : parityStep s.parity d = false) :
      EdgeOutcome d s (enterError { s with parity := false })
  | goodStop (hp : InPhase s .receivingStop) (hd : d = true) (hc : s.head < s.params.cap) :
      EdgeOutcome d s { s with
        state := ProtocolState.idle.code, timerEn := false, rxbuf := Memory.write s.rxbuf s.head s.shift,
        head := nextSlot s.params s.head }
  | badStop (hp : InPhase s .receivingStop) (hd : d = false) : EdgeOutcome d s (enterError s)
  | transmittedBit (hp : InPhase s .transmittingData) (hb : 2 ≤ s.bitcnt.toNat ∧ s.bitcnt.toNat ≤ 8) :
      EdgeOutcome d s { s with
        dat := s.dat.drive (outgoingBit s.shift), parity := parityStep s.parity (outgoingBit s.shift),
        shift := shiftOut s.shift, bitcnt := s.bitcnt - 1, bark := s.params.barkBit }
  | transmittedLastBit (hp : InPhase s .transmittingData) (hb : s.bitcnt = 1) :
      EdgeOutcome d s { s with
        dat := s.dat.drive (outgoingBit s.shift), parity := parityStep s.parity (outgoingBit s.shift),
        shift := shiftOut s.shift, bitcnt := 0, bark := s.params.barkBit,
        state := ProtocolState.transmittingParity.code }
  | transmittedParity (hp : InPhase s .transmittingParity) :
      EdgeOutcome d s { s with
        dat := s.dat.drive (parityBit s.parity), state := ProtocolState.transmittingStop.code,
        bark := s.params.barkBit }
  | transmittedStop (hp : InPhase s .transmittingStop) :
      EdgeOutcome d s { s with
        dat := (s.dat.drive true).release, clk := s.clk.release, state := ProtocolState.awaitingAck.code,
        bark := s.params.barkBit }
  | acknowledged (hp : InPhase s .awaitingAck) (hd : d = false) :
      EdgeOutcome d s { s with idlecnt := s.params.idleWait, state := ProtocolState.awaitingIdle.code }
  | noAck (hp : InPhase s .awaitingAck) (hd : d = true) : EdgeOutcome d s (enterError s)
  | ignored (hp : InPhase s .requestingSend ∨ InPhase s .awaitingIdle ∨ InPhase s .error) : EdgeOutcome d s s

theorem sub_one_eq_zero_iff {n : BitVec 4} : n - 1 = 0 ↔ n = 1 := by
  revert n
  decide

theorem two_le_of_ne_one {n : BitVec 4} (h : 1 ≤ n.toNat ∧ n.toNat ≤ 8) (h1 : n ≠ 1) :
    2 ≤ n.toNat ∧ n.toNat ≤ 8 := by
  revert n
  decide

theorem toNat_sub_one {n : BitVec 4} (h : 1 ≤ n.toNat) : (n - 1).toNat = n.toNat - 1 := by
  revert n
  decide

theorem edgeArm_outcome {d : Bool} {s u : State} {p : ProtocolState} (hp : InPhase s p) (hs : Sound s)
    (h : edgeArm d s p = .next u) : EdgeOutcome d s u := by
  cases p with
  | idle =>
    change edgeIdle d s = .next u at h
    unfold edgeIdle at h
    split at h <;> cases h
    · exact .startBit hp ‹_›
    · exact .badStart hp (by simpa using ‹¬ d = false›)
  | receivingData =>
    cases h
    by_cases h1 : s.bitcnt = 1
    · simpa [h1] using EdgeOutcome.receivedLastBit (d := d) hp h1
    · rw [if_neg (mt sub_one_eq_zero_iff.mp h1)]
      exact .receivedBit hp (two_le_of_ne_one (hs.2 (.inl hp)) h1)
  | receivingParity =>
    change edgeReceivingParity d s = .next u at h
    unfold edgeReceivingParity at h
    cases hacc : parityStep s.parity d <;> simp only [hacc] at h <;> cases h
    · exact .badParity hp hacc
    · exact .goodParity hp hacc
  | receivingStop =>
    change edgeReceivingStop d s = .next u at h
    unfold edgeReceivingStop at h
    split at h
    · obtain ⟨hc, rfl⟩ := pushByte_next h
      exact .goodStop hp ‹_› hc
    · cases h
      exact .badStop hp (by simpa using ‹¬ d = true›)
  | requestingSend => cases h; exact .ignored (.inl hp)
  | transmittingData =>
    cases h
    by_cases h1 : s.bitcnt = 1
    · simpa [h1] using EdgeOutcome.transmittedLastBit (d := d) hp h1
    · rw [if_neg (mt sub_one_eq_zero_iff.mp h1)]
      exact .transmittedBit hp (two_le_of_ne_one (hs.2 (.inr hp)) h1)
  | transmittingParity => cases h; exact .transmittedParity hp
  | transmittingStop => cases h; exact .transmittedStop hp
  | awaitingAck =>
    change edgeAwaitingAck d s = .next u at h
    unfold edgeAwaitingAck at h
    split at h <;> cases h
    · exact .acknowledged hp ‹_›
    · exact .noAck hp (by simpa using ‹¬ d = false›)
  | awaitingIdle => cases h; exact .ignored (.inr (.inl hp))
  | error => cases h; exact .ignored (.inr (.inr hp))

/-- Every state a tick's arm leaves (41_timer_controller.md R131 to R137). -/
inductive TickOutcome (c d : Bool) (s : State) : State → Prop where
  | stale (hp : InPhase s .idle) : TickOutcome c d s (tickIdle s)
  | handshake (hp : InPhase s .requestingSend) : TickOutcome c d s (tickRequestingSend s)
  | barkDown (hp : InWatched s) (hb : 2 ≤ s.bark) : TickOutcome c d s { s with bark := s.bark - 1 }
  | barked (hp : InWatched s) (hb : s.bark ≤ 1) : TickOutcome c d s (enterError { s with bark := 0 })
  | busIdle (hp : InPhase s .awaitingIdle) (hcd : c = true ∧ d = true) :
      TickOutcome c d s { s with timerEn := false, state := ProtocolState.idle.code }
  | idleDown (hp : InPhase s .awaitingIdle) (hcd : ¬ (c = true ∧ d = true)) (hi : 2 ≤ s.idlecnt) :
      TickOutcome c d s { s with idlecnt := s.idlecnt - 1 }
  | idleTimeout (hp : InPhase s .awaitingIdle) (hcd : ¬ (c = true ∧ d = true)) (hi : s.idlecnt ≤ 1) :
      TickOutcome c d s (enterError { s with idlecnt := 0 })
  | recoveryStart (hp : InPhase s .error) (hr : s.recPhase = false) : TickOutcome c d s (startRecovery s)
  | recoveryEnd (hp : InPhase s .error) (hr : s.recPhase = true) : TickOutcome c d s (endRecovery s)

theorem tickWatched_outcome {c d : Bool} {s : State} (h : InWatched s) : TickOutcome c d s (tickWatched s) := by
  unfold tickWatched
  split
  · rename_i h0
    have hs : s = { s with bark := 0 } := by rw [← h0]
    have := TickOutcome.barked (c := c) (d := d) h (by omega)
    rw [← hs] at this
    exact this
  · split
    · have h1 : s.bark - 1 = 0 := ‹_›
      rw [h1]
      exact .barked h (by omega)
    · exact .barkDown h (by omega)

theorem tickArm_outcome (c d : Bool) {s : State} {p : ProtocolState} (hp : InPhase s p) :
    TickOutcome c d s (tickArm c d s p) := by
  have watched : p.watched = true → TickOutcome c d s (tickWatched s) :=
    fun hw => tickWatched_outcome (inWatched_iff.mpr ⟨p, hw, hp⟩)
  cases p with
  | idle => exact .stale hp
  | requestingSend => exact .handshake hp
  | awaitingIdle =>
    show TickOutcome c d s (tickAwaitingIdle c d s)
    unfold tickAwaitingIdle
    split
    · exact .busIdle hp (by simpa [Sys2Proof.Machine.busIdle] using ‹Sys2Proof.Machine.busIdle c d = true›)
    · have hcd : ¬ (c = true ∧ d = true) := by
        simpa [Sys2Proof.Machine.busIdle] using ‹¬ Sys2Proof.Machine.busIdle c d = true›
      split
      · rename_i h0
        have hs : s = { s with idlecnt := 0 } := by rw [← h0]
        have := TickOutcome.idleTimeout hp hcd (by omega)
        rw [← hs] at this
        exact this
      · split
        · have h1 : s.idlecnt - 1 = 0 := ‹_›
          rw [h1]
          exact .idleTimeout hp hcd (by omega)
        · exact .idleDown hp hcd (by omega)
  | error =>
    show TickOutcome c d s (tickError s)
    unfold tickError
    split
    · exact .recoveryStart hp ‹_›
    · exact .recoveryEnd hp (by simpa using ‹¬ s.recPhase = false›)
  | receivingData => exact watched rfl
  | receivingParity => exact watched rfl
  | receivingStop => exact watched rfl
  | transmittingData => exact watched rfl
  | transmittingParity => exact watched rfl
  | transmittingStop => exact watched rfl
  | awaitingAck => exact watched rfl

/-- Every next state of exec. -/
inductive ExecOutcome (s : State) : Instr → State → Prop where
  | blocked {i : Instr} (ha : agentOf i = .host) (hr : ¬ HostReady s) : ExecOutcome s i (record .hostBlocked s)
  | tickDisarmed {c d : Bool} (ht : s.timerEn = false) : ExecOutcome s (.tick c d) (record .tickDisarmed s)
  | edgeLost {d : Bool} (he : s.edgeEn = false) : ExecOutcome s (.edge d) s
  | badState {i : Instr} (ha : Admissible i s) (hs : ¬ Sound s) : ExecOutcome s i (record .badState s)
  | init (hr : HostReady s) (hs : Sound s) :
      ExecOutcome s .init { s with
        state := ProtocolState.idle.code, head := 0, tail := 0, edgeEn := false, timerEn := false,
        recPhase := false, clk := s.clk.release, dat := s.dat.release }
  | rxon (hr : HostReady s) (hs : Sound s) :
      ExecOutcome s .rxon { s with
        state := ProtocolState.idle.code, clk := s.clk.release, dat := s.dat.release, edgeEn := true,
        recPhase := false }
  | rxoff (hr : HostReady s) (hs : Sound s) : ExecOutcome s .rxoff (disableReception s)
  | busy (hr : HostReady s) (hs : Sound s) : ExecOutcome s .busy { s with result := .bit (busyFlag s) }
  | avail (hr : HostReady s) (hs : Sound s) : ExecOutcome s .avail { s with result := .bit (availableFlag s) }
  | getbEmpty (hr : HostReady s) (hs : Sound s) (he : s.head = s.tail) : ExecOutcome s .getb (record .emptyPop s)
  | getb (hr : HostReady s) (hs : Sound s) (he : s.head ≠ s.tail) (hc : s.tail < s.params.cap) :
      ExecOutcome s .getb { s with
        result := .byte (slotByte s.rxbuf s.tail), tail := nextSlot s.params s.tail }
  | sendStart {b : Byte} (hr : HostReady s) (hs : Sound s) (hp : InPhase s .idle) :
      ExecOutcome s (.send b) { startSend b s with hostPhase := hostWaitDone }
  | sendWait {b : Byte} (hr : HostReady s) (hs : Sound s) (hp : ¬ InPhase s .idle) :
      ExecOutcome s (.send b) { s with hostByte := b, hostPhase := hostWaitStart }
  | edge {d : Bool} {u : State} (he : s.edgeEn = true) (hs : Sound s) (hu : EdgeOutcome d s u) :
      ExecOutcome s (.edge d) (requestRecovery u)
  | tick {c d : Bool} {u : State} (ht : s.timerEn = true) (hs : Sound s) (hu : TickOutcome c d s u) :
      ExecOutcome s (.tick c d) u

/-- A host command's outcome follows from what its body can do. -/
theorem hostCommand_outcome {i : Instr} {s t : State} {body : Out} (ha : agentOf i = .host)
    (h : hostCommand s body = .next t) (hb : HostReady s → Sound s → body = .next t → ExecOutcome s i t) :
    Live s ∧ ExecOutcome s i t := by
  obtain ⟨hl, ⟨hr, hs, h⟩ | ⟨hr, hs, rfl⟩ | ⟨hr, rfl⟩⟩ := hostCommand_next h
  · exact ⟨hl, hb hr hs h⟩
  · exact ⟨hl, .badState ⟨fun _ => hr, by simp [ha], by simp [ha]⟩ hs⟩
  · exact ⟨hl, .blocked ha hr⟩

theorem exec_outcome {i : Instr} {s t : State} (h : exec i s = .next t) : Live s ∧ ExecOutcome s i t := by
  cases i with
  | init => exact hostCommand_outcome rfl h fun hr hs hb => by cases hb; exact .init hr hs
  | rxoff => exact hostCommand_outcome rfl h fun hr hs hb => by cases hb; exact .rxoff hr hs
  | rxon => exact hostCommand_outcome rfl h fun hr hs hb => by cases hb; exact .rxon hr hs
  | busy => exact hostCommand_outcome rfl h fun hr hs hb => by cases hb; exact .busy hr hs
  | avail => exact hostCommand_outcome rfl h fun hr hs hb => by cases hb; exact .avail hr hs
  | getb =>
    refine hostCommand_outcome rfl h fun hr hs hb => ?_
    split at hb
    · obtain ⟨hc, rfl⟩ := popByte_next hb
      exact .getb hr hs (by simpa [availableFlag] using ‹availableFlag s = true›) hc
    · cases hb
      exact .getbEmpty hr hs (by simpa [availableFlag] using ‹¬ availableFlag s = true›)
  | send b =>
    refine hostCommand_outcome rfl h fun hr hs hb => ?_
    split at hb <;> cases hb
    · exact .sendStart hr hs ‹_›
    · exact .sendWait hr hs ‹_›
  | edge d =>
    obtain ⟨hl, ⟨he, rfl⟩ | ⟨he, ⟨hs, rfl⟩ | ⟨p, u, hp, hs, hu, rfl⟩⟩⟩ := execEdge_next h
    · exact ⟨hl, .edgeLost he⟩
    · exact ⟨hl, .badState ⟨by simp [agentOf], fun _ => he, by simp [agentOf]⟩ hs⟩
    · exact ⟨hl, .edge he hs (edgeArm_outcome hp hs hu)⟩
  | tick c d =>
    obtain ⟨hl, ⟨ht, rfl⟩ | ⟨ht, ⟨hs, rfl⟩ | ⟨p, hp, hs, rfl⟩⟩⟩ := execTick_next h
    · exact ⟨hl, .tickDisarmed ht⟩
    · exact ⟨hl, .badState ⟨by simp [agentOf], by simp [agentOf], fun _ => ht⟩ hs⟩
    · exact ⟨hl, .tick ht hs (tickArm_outcome c d hp)⟩

/-- Every admissible stimulus raises F_BAD_STATE on a code no run reaches (60_exceptions.md R208 (4)). -/
theorem exec_of_unsound {i : Instr} {s : State} (hl : Live s) (ha : Admissible i s) (hs : ¬ Sound s) :
    exec i s = .next (record .badState s) := by
  cases i with
  | edge d => exact execEdge_of_unsound hl (ha.2.1 rfl) hs
  | tick c d => exact execTick_of_unsound hl (ha.2.2 rfl) hs
  | _ => exact hostCommand_of_unsound hl (ha.1 rfl) hs _

end Sys2Proof.Machine
end

