-- ==== Sys2Proof/Laws/PerInstr.lean ====
section
/-! SUPPORT. The per-instruction family EncodingMatchesRow: the word of a stimulus is covered by the match/mask pair
of its own row of 30_encoding.md R72, and by no other row. -/

namespace Sys2Proof.Laws.EncodingMatchesRow

/-- The rows that cover the stimulus's word are exactly the one row of its mnemonic (30_encoding.md R72). -/
def Statement (i : Instr) : Prop :=
  (opcodeRows.filter (·.covers (encode i))).map (·.mnemonic) = [i.mnemonic]

theorem init : Statement .init := rfl

theorem rxoff : Statement .rxoff := rfl

theorem rxon : Statement .rxon := rfl

theorem busy : Statement .busy := rfl

theorem send (b : Byte) : Statement (.send b) := by
  revert b
  unfold Statement
  decide

theorem avail : Statement .avail := rfl

theorem getb : Statement .getb := rfl

theorem edge (d : Bool) : Statement (.edge d) := by cases d <;> rfl

theorem tick (c d : Bool) : Statement (.tick c d) := by cases c <;> cases d <;> rfl

end Sys2Proof.Laws.EncodingMatchesRow
end

