-- ==== Sys2Proof/Tests/Slice0.lean ====
section
/-! SUPPORT. The model's own tests: ill-formed terms, the decoder on words written out from 30_encoding.md, single
steps with the results of the spec's own examples, and for every statement with hypotheses a state that meets them. -/

namespace Sys2Proof.Tests

open Sys2Proof.Machine Sys2Proof.Claims

/-! ## States and outcomes to test with -/

/-- The next state, if there is one. -/
def after (o : Out) : Option State :=
  match o with
  | .next s => some s
  | .fault _ => none
  | .refused _ => none

/-- A coherent state in a protocol state the engine or the timer watches, the lines released. -/
def sampleAt (p : ProtocolState) : State :=
  { State.reset with
    state := p.code, edgeEn := true, timerEn := true, timerPer := 1, bitcnt := 8, shift := 0x41, bark := 2,
    idlecnt := 2 }

/-- A coherent state in Idle with two unread bytes, in the last slot and in slot 0. -/
def twoUnread : State :=
  { State.reset with edgeEn := true, rxbuf := [(0, 0x22), (3, 0x11)], head := 1, tail := 3 }

/-- A coherent state in Idle with nothing unread, both indices at the last slot. -/
def wrappedEmpty : State := { twoUnread with head := 3 }

/-- A coherent state waiting for the handshake tick of a SEND. -/
def handshaking : State :=
  { State.reset with
    state := 4, pending := 0x05, timerEn := true, hostPhase := 2, clk := { dir := true, lvl := false } }

/-- A coherent state in the recovery hold. -/
def holding : State :=
  { State.reset with
    state := 10, recPhase := true, timerEn := true, timerPer := 2, clk := { dir := true, lvl := false },
    dat := { dir := true, lvl := false } }

/-- The state with the stimulus as its next turn. -/
def facing (i : Instr) (s : State) : State := { s with agenda := [.stimulus (encode i)] }

/-! ## Well-formedness -/

theorem test_vectors_wellFormed : Params.vectors.wellFormed = true := by decide

theorem test_illformed_cap : ({ Params.vectors with cap := 1 } : Params).wellFormed = false := by decide

theorem test_illformed_cntW :
    ({ Params.vectors with cntW := 0, barkRts := 1, barkBit := 1, idleWait := 1 } : Params).wellFormed = false := by
  decide

theorem test_illformed_barkRts :
    ({ Params.vectors with barkRts := 0 } : Params).wellFormed = false ∧
    ({ Params.vectors with barkRts := 16 } : Params).wellFormed = false := by decide

theorem test_illformed_barkBit :
    ({ Params.vectors with barkBit := 0 } : Params).wellFormed = false ∧
    ({ Params.vectors with barkBit := 16 } : Params).wellFormed = false := by decide

theorem test_illformed_idleWait :
    ({ Params.vectors with idleWait := 0 } : Params).wellFormed = false ∧
    ({ Params.vectors with idleWait := 16 } : Params).wellFormed = false := by decide

theorem test_wellformed_bounds :
    ({ Params.vectors with cap := 2, cntW := 1, barkRts := 1, barkBit := 1, idleWait := 1 } : Params).wellFormed =
      true := by decide

/-- IDX_W = ceil(log2(CAP)) (00_scope.md R9). -/
theorem test_idxW : [2, 3, 4, 5, 8, 9].map (fun c => ({ Params.vectors with cap := c } : Params).idxW) =
    [1, 2, 2, 3, 3, 4] := by decide

/-- 30_encoding.md R76: each reserved OP. -/
theorem test_illformed_op :
    [0x000#12, 0x7FF#12, 0xA00#12, 0xB00#12, 0xC00#12, 0xD00#12, 0xE00#12, 0xFFF#12].all
      (fun w => !wordWellFormed w) = true := by decide

/-- 30_encoding.md R77: a reserved ARG bit of each operation that has one. -/
theorem test_illformed_arg :
    [0x101#12, 0x202#12, 0x280#12, 0x301#12, 0x501#12, 0x680#12, 0x802#12, 0x880#12, 0x904#12, 0x980#12].all
      (fun w => !wordWellFormed w) = true := by decide

/-! ## Decoding: words written out from 30_encoding.md R72 and R73 -/

theorem test_decode_init : decode 0b000100000000#12 = .ok .init := rfl
theorem test_decode_rxoff : decode 0b001000000000#12 = .ok .rxoff := rfl
theorem test_decode_rxon : decode 0b001000000001#12 = .ok .rxon := rfl
theorem test_decode_busy : decode 0b001100000000#12 = .ok .busy := rfl
theorem test_decode_send : decode 0b010000000101#12 = .ok (.send 0x05) := rfl
theorem test_decode_avail : decode 0b010100000000#12 = .ok .avail := rfl
theorem test_decode_getb : decode 0b011000000000#12 = .ok .getb := rfl
theorem test_decode_edge0 : decode 0b100000000000#12 = .ok (.edge false) := rfl
theorem test_decode_edge1 : decode 0b100000000001#12 = .ok (.edge true) := rfl
theorem test_decode_tick_c : decode 0b100100000010#12 = .ok (.tick true false) := rfl
theorem test_decode_tick_d : decode 0b100100000001#12 = .ok (.tick false true) := rfl
theorem test_decode_reserved_op : decode 0b101000000000#12 = .error .reservedOp := rfl
theorem test_decode_reserved_arg : decode 0b100100000100#12 = .error .reservedArg := rfl

/-- The host's numbering: 12 bits in two bytes; a set bit above bit 11 leaves no stimulus word. -/
theorem test_decodeTableWord :
    decodeTableWord 16 0x4A5 = some (.send 0xA5) ∧ decodeTableWord 16 0x7FF = none ∧
      decodeTableWord 16 0x1100 = none := by decide

/-- "No two patterns overlap" (30_encoding.md R72). -/
theorem test_rows_do_not_overlap :
    opcodeRows.Pairwise (fun r q => r.pattern &&& q.mask ≠ q.pattern &&& r.mask) := by decide

/-! ## Single steps: the examples of the rules -/

/-- 42_host_api.md R160's example. -/
theorem test_init :
    (after (exec .init { sampleAt .receivingData with head := 3, tail := 1 })).map
      (fun t => (t.state, t.head, t.tail, t.edgeEn, t.timerEn)) = some (0, 0, 0, false, false) := by decide

/-- 42_host_api.md R162's example. -/
theorem test_rxoff :
    (after (exec .rxoff { State.reset with edgeEn := true })).map (fun t => (t.state, t.edgeEn, t.clk, t.dat.dir)) =
      some (0, false, { dir := true, lvl := false }, false) := by decide

/-- 42_host_api.md R161's example, from the recovery hold. -/
theorem test_rxon :
    (after (exec .rxon holding)).map (fun t => (t.state, t.edgeEn, t.recPhase, t.clk.dir, t.dat.dir, t.timerEn)) =
      some (0, true, false, false, false, true) := by decide

/-- 42_host_api.md R165's example. -/
theorem test_busy : (after (exec .busy (sampleAt .error))).map (·.result) = some (.bit true) := by decide

/-- 42_host_api.md R166's example. -/
theorem test_send_in_idle :
    (after (exec (.send 0x05) State.reset)).map
      (fun t => (t.state, t.pending, t.edgeEn, t.clk, t.timerEn, t.hostPhase)) =
        some (4, 0x05, false, { dir := true, lvl := false }, true, 2) := by decide

/-- 42_host_api.md R166: a SEND outside Idle waits. -/
theorem test_send_waits :
    (after (exec (.send 0xAA) (sampleAt .receivingStop))).map (fun t => (t.state, t.hostByte, t.hostPhase)) =
      some (3, 0xAA, 1) := by decide

/-- 42_host_api.md R168's example. -/
theorem test_avail : (after (exec .avail { State.reset with head := 1 })).map (·.result) = some (.bit true) := by
  decide

/-- 42_host_api.md R169: with TAIL = CAP - 1 the index wraps to 0. -/
theorem test_getb_wraps :
    (after (exec .getb twoUnread)).map (fun t => (t.result, t.tail)) = some (.byte 0x11, 0) := by decide

/-- 20_memory.md R54, 60_exceptions.md R208: an empty buffer; F_BAD_STATE comes before it, HOST_BLOCKED before that. -/
theorem test_getb_empty :
    (after (exec .getb State.reset)).map (·.fault) = some (some .emptyPop) ∧
    (after (exec .getb { State.reset with state := 12 })).map (·.fault) = some (some .badState) ∧
    (after (exec .getb { State.reset with state := 12, hostPhase := 2 })).map (·.fault) =
      some (some .hostBlocked) := by decide

/-- 40_edge_engine.md R102's example: the last data bit. -/
theorem test_edge_last_data_bit :
    (after (exec (.edge false) { sampleAt .receivingData with bitcnt := 1 })).map
      (fun t => (t.shift, t.bitcnt, t.state)) = some (0x20, 0, 2) := by decide

/-- 40_edge_engine.md R106's example: the least significant bit goes out first. -/
theorem test_edge_data_bit_out :
    (after (exec (.edge false) { sampleAt .transmittingData with shift := 0x05 })).map
      (fun t => (t.dat, t.shift, t.parity, t.bitcnt)) = some ({ dir := true, lvl := true }, 0x02, true, 7) := by
  decide

/-- 41_timer_controller.md R135's example: the lines are read before the counter. -/
theorem test_tick_awaiting_idle :
    (after (exec (.tick true false) (sampleAt .awaitingIdle))).map (fun t => (t.idlecnt, t.state)) = some (1, 9) ∧
    (after (exec (.tick true true) { sampleAt .awaitingIdle with idlecnt := 1 })).map
      (fun t => (t.state, t.timerEn)) = some (0, false) := by decide

/-- 41_timer_controller.md R133's example. -/
theorem test_tick_handshake :
    (after (exec (.tick false true) handshaking)).map
      (fun t => ((t.state, t.shift, t.bitcnt, t.bark), (t.dat, t.clk.dir, t.edgeEn))) =
        some ((5, 0x05, 8, 3), ({ dir := true, lvl := false }, false, true)) := by decide

/-- A table row's word runs as the first stimulus after reset. -/
theorem test_withFetchWord :
    step (State.reset.withFetchWord 16 0x4A5) = exec (.send 0xA5) State.reset := rfl

/-! ## The statements' hypotheses can be met -/

theorem witness_DecodeEncodeAgree : decode 0x4FF#12 = .ok (.send 0xFF) := rfl

theorem witness_DecodingIsTotalByTheTable :
    decode 0x903#12 = .ok (.tick true true) ∧ decode 0x000#12 = .error .reservedOp ∧
      decode 0x7FF#12 = .error .reservedOp ∧ decode 0xA00#12 = .error .reservedOp ∧
      decode 0x802#12 = .error .reservedArg := ⟨rfl, rfl, rfl, rfl, rfl⟩

theorem witness_StateEncoding : 11 ≤ (11#4).toNat ∧ 11 ≤ (15#4).toNat := by decide

theorem witness_StepRunsDecodedStimulus :
    (facing .rxon twoUnread).agenda = .stimulus 0x201#12 :: [] ∧ decode 0x201#12 = .ok .rxon ∧
      Live (facing .rxon twoUnread) := ⟨rfl, rfl, rfl⟩

theorem witness_ReservedWordsAreRefused :
    ∃ s : State, s.agenda = .stimulus 0xFFF#12 :: [.stimulus 0x301#12] ∧ Live s ∧
      decode 0xFFF#12 = .error .reservedOp ∧ decode 0x301#12 = .error .reservedArg :=
  ⟨{ twoUnread with agenda := [.stimulus 0xFFF#12, .stimulus 0x301#12] }, rfl, rfl, rfl, rfl⟩

theorem witness_FaultedStateHasNoStep :
    [FaultKind.emptyPop, .badState, .reservedOp, .reservedArg, .tickDisarmed, .hostBlocked].all
      (fun k => (record k (facing .busy twoUnread)).fault == some k) = true := by decide

theorem witness_RecordingAFaultChangesNothingElse :
    ∃ t, exec .getb State.reset = .next t ∧ t.fault = some .emptyPop := ⟨_, rfl, rfl⟩

theorem witness_ResultsByStimulus :
    (∃ t, step (facing .busy twoUnread) = .next t ∧ t.fault = none) ∧
    (∃ t, step (facing .avail twoUnread) = .next t ∧ t.fault = none) ∧
    (∃ t, step (facing .getb twoUnread) = .next t ∧ t.fault = none) ∧
    (∃ t, step (facing .rxoff twoUnread) = .next t ∧ t.fault = none) :=
  ⟨⟨_, rfl, rfl⟩, ⟨_, rfl, rfl⟩, ⟨_, rfl, rfl⟩, ⟨_, rfl, rfl⟩⟩

theorem witness_BlockWaitsForStimuli : State.reset.agenda = [] ∧ Live State.reset := ⟨rfl, rfl⟩

theorem witness_HostInternalSteps :
    let s : State := { State.reset with hostByte := 0xAA, agenda := [.hostStep] }
    Live s ∧ InPhase s .idle ∧ ({ s with hostPhase := 1 } : State).hostPhase = 1 ∧
      ({ s with hostPhase := 2 } : State).hostPhase = 2 ∧ (s.hostPhase ≠ 1 ∧ s.hostPhase ≠ 2) ∧
      ¬ InPhase (sampleAt .error) .idle := by decide

theorem witness_BlockedHostIsRefused : agentOf (.send 0) = .host ∧ Live handshaking ∧ ¬ HostReady handshaking := by
  decide

theorem witness_DisarmedTimerDoesNotTick : Live twoUnread ∧ twoUnread.timerEn = false := by decide

theorem witness_EdgeWithReceptionOffIsLost : Live handshaking ∧ handshaking.edgeEn = false := by decide

theorem witness_UnreachableCodesFault :
    [11#4, 15#4].all (fun v =>
      let s : State := { sampleAt .idle with state := v }
      decide (Live s ∧ 11 ≤ s.state.toNat ∧ Admissible .getb s ∧ Admissible (.edge true) s ∧
        Admissible (.tick true true) s)) = true ∧
    [0#4, 9#4, 15#4].all (fun n =>
      let s : State := { sampleAt .receivingData with bitcnt := n }
      decide (Live s ∧ Admissible .init s ∧ Admissible (.edge true) s ∧ Admissible (.tick true true) s ∧
        InPhase s .receivingData ∧ (s.bitcnt = 0 ∨ 8 < s.bitcnt.toNat))) = true ∧
    InPhase (sampleAt .transmittingData) .transmittingData ∧
    (let s : State := { sampleAt .receivingStop with head := 4 }
     AcceptsEdge s .receivingStop ∧ s.params.cap ≤ s.head) ∧
    (let s : State := { State.reset with tail := 4 }
     AcceptsCommand s ∧ s.head ≠ s.tail ∧ s.params.cap ≤ s.tail) := by decide

theorem witness_EdgeStartBit : AcceptsEdge (sampleAt .idle) .idle := by decide

theorem witness_EdgeReceivedDataBit :
    [1#4, 2#4, 8#4].all (fun n =>
      let s : State := { sampleAt .receivingData with bitcnt := n }
      decide (AcceptsEdge s .receivingData ∧ 1 ≤ s.bitcnt.toNat ∧ s.bitcnt.toNat ≤ 8)) = true ∧
    [0#4, 9#4].all (fun n =>
      let s : State := { sampleAt .receivingData with bitcnt := n }
      decide (AcceptsEdge s .receivingData ∧ ¬ (1 ≤ s.bitcnt.toNat ∧ s.bitcnt.toNat ≤ 8))) = true := by decide

theorem witness_EdgeReceivedParityBit :
    AcceptsEdge (sampleAt .receivingParity) .receivingParity ∧ ((sampleAt .receivingParity).parity ^^ true) = true ∧
      ((sampleAt .receivingParity).parity ^^ false) = false := by decide

theorem witness_EdgeStopBit :
    let s : State := { sampleAt .receivingStop with head := 3 }
    AcceptsEdge s .receivingStop ∧ s.head < s.params.cap ∧ 0 ≠ s.head := by decide

theorem witness_EdgeInTimerOwnedStates :
    AcceptsEdge (sampleAt .requestingSend) .requestingSend ∧ AcceptsEdge (sampleAt .awaitingIdle) .awaitingIdle ∧
      AcceptsEdge (sampleAt .error) .error := by decide

theorem witness_EdgeTransmittedDataBit :
    [1#4, 2#4, 8#4].all (fun n =>
      let s : State := { sampleAt .transmittingData with bitcnt := n }
      decide (AcceptsEdge s .transmittingData ∧ 1 ≤ s.bitcnt.toNat ∧ s.bitcnt.toNat ≤ 8)) = true ∧
    [0#4, 9#4].all (fun n =>
      let s : State := { sampleAt .transmittingData with bitcnt := n }
      decide (AcceptsEdge s .transmittingData ∧ ¬ (1 ≤ s.bitcnt.toNat ∧ s.bitcnt.toNat ≤ 8))) = true := by decide

theorem witness_EdgeTransmittedParityAndStop :
    AcceptsEdge (sampleAt .transmittingParity) .transmittingParity ∧
      AcceptsEdge (sampleAt .transmittingStop) .transmittingStop := by decide

theorem witness_EdgeAcknowledgement : AcceptsEdge (sampleAt .awaitingAck) .awaitingAck := by decide

theorem witness_EveryEdgeInErrorRequestsRecovery :
    (∃ t, exec (.edge true) (sampleAt .awaitingAck) = .next t ∧ InPhase t .error ∧ t.recPhase = false) ∧
    (∃ t, exec (.edge true) { holding with edgeEn := true } = .next t ∧ InPhase t .error ∧ t.recPhase = true) :=
  ⟨⟨_, rfl, rfl, rfl⟩, ⟨_, rfl, rfl, rfl⟩⟩

theorem witness_TickInIdleDisarms : AcceptsTick (sampleAt .idle) .idle := by decide

theorem witness_TickCompletesHandshake : AcceptsTick handshaking .requestingSend := by decide

theorem witness_TickCountsBarkDown :
    [0, 1, 2].all (fun b =>
      let s : State := { sampleAt .awaitingAck with bark := b }
      decide (Live s ∧ s.timerEn = true ∧ InWatched s ∧ Sound s)) = true := by decide

theorem witness_TickEndsTransmission :
    [0, 1, 2].all (fun n =>
      decide (AcceptsTick { sampleAt .awaitingIdle with idlecnt := n } .awaitingIdle)) = true := by decide

theorem witness_TickStartsAndEndsRecovery :
    AcceptsTick (sampleAt .error) .error ∧ (sampleAt .error).recPhase = false ∧ AcceptsTick holding .error ∧
      holding.recPhase = true := by decide

theorem witness_InitEffect : AcceptsCommand { sampleAt .receivingData with head := 3, tail := 1 } ∧ Live handshaking ∧
    ¬ HostReady handshaking := by decide

theorem witness_ReceptionOnAndOff :
    AcceptsCommand holding ∧ Live handshaking ∧ ¬ HostReady handshaking := by decide

theorem witness_QueriesReturnTheirFlag :
    AcceptsCommand twoUnread ∧ Live handshaking ∧ ¬ HostReady handshaking := by decide

theorem witness_GetbPopsTheOldestByte :
    (Live handshaking ∧ ¬ HostReady handshaking) ∧
    (AcceptsCommand State.reset ∧ State.reset.head = State.reset.tail) ∧
    (AcceptsCommand twoUnread ∧ twoUnread.head ≠ twoUnread.tail ∧ twoUnread.tail < twoUnread.params.cap ∧
      Memory.read twoUnread.rxbuf twoUnread.tail = some 0x11) := by decide

theorem witness_SendStartsOrWaits :
    (Live handshaking ∧ ¬ HostReady handshaking) ∧
    (AcceptsCommand State.reset ∧ InPhase State.reset .idle) ∧
    (AcceptsCommand (sampleAt .error) ∧ ¬ InPhase (sampleAt .error) .idle) := by decide

theorem witness_BlockedSendKeepsItsByte :
    (∃ t, step (facing (.tick false true) handshaking) = .next t ∧ handshaking.hostPhase = 2) ∧
    (∃ t, step { State.reset with hostPhase := 2, agenda := [.hostStep] } = .next t ∧ t.hostPhase = 0) ∧
    (∃ t, step { State.reset with hostPhase := 1, hostByte := 0xAA, agenda := [.hostStep] } = .next t ∧
      t.pending = 0xAA) :=
  ⟨⟨_, rfl, rfl⟩, ⟨_, rfl, rfl⟩, ⟨_, rfl, rfl⟩⟩

/-- Each register of the statement changes under one of the stimuli it names. -/
theorem witness_RegistersHaveTheirWriters :
    (∃ t, exec (.edge true) (sampleAt .receivingStop) = .next t ∧ Memory.read t.rxbuf 0 ≠ none ∧ t.head ≠ 0 ∧
      t.state ≠ 3 ∧ t.timerEn ≠ true) ∧
    (∃ t, exec .getb twoUnread = .next t ∧ t.tail ≠ 3 ∧ t.result ≠ .nothing) ∧
    (∃ t, exec (.send 1) State.reset = .next t ∧ t.pending ≠ 0 ∧ t.hostPhase ≠ 0 ∧ t.clk.dir ≠ false) ∧
    (∃ t, exec (.tick false false) handshaking = .next t ∧ t.shift ≠ 0 ∧ t.bitcnt ≠ 0 ∧ t.bark ≠ 0 ∧
      t.edgeEn ≠ false ∧ t.timerPer ≠ 0 ∧ t.dat.dir ≠ false) ∧
    (∃ t, exec (.edge true) (sampleAt .receivingData) = .next t ∧ t.parity ≠ false) ∧
    (∃ t, exec (.tick false true) (sampleAt .awaitingIdle) = .next t ∧ t.idlecnt ≠ 2) ∧
    (∃ t, exec (.tick false true) holding = .next t ∧ t.recPhase ≠ true) ∧
    (∃ t, exec (.send 1) (sampleAt .error) = .next t ∧ t.hostByte ≠ 0) :=
  ⟨⟨_, rfl, by decide⟩, ⟨_, rfl, by decide⟩, ⟨_, rfl, by decide⟩, ⟨_, rfl, by decide⟩, ⟨_, rfl, by decide⟩,
    ⟨_, rfl, by decide⟩, ⟨_, rfl, by decide⟩, ⟨_, rfl, by decide⟩⟩

theorem witness_ErrorIsEnteredExactlyOnDetection :
    (∃ t, exec (.edge true) (sampleAt .idle) = .next t ∧ ¬ InPhase (sampleAt .idle) .error ∧ InPhase t .error) ∧
    (∃ t, exec (.edge false) (sampleAt .idle) = .next t ∧ ¬ InPhase t .error) :=
  ⟨⟨_, rfl, by decide⟩, ⟨_, rfl, by decide⟩⟩

theorem witness_ErrorIsLeftOnlyByRecoveryOrHost :
    (∃ t, exec (.tick false false) holding = .next t ∧ InPhase holding .error ∧ ¬ InPhase t .error) ∧
    (∃ t, exec .rxon (sampleAt .error) = .next t ∧ ¬ InPhase t .error) ∧
    (∃ t, exec .init (sampleAt .error) = .next t ∧ ¬ InPhase t .error) :=
  ⟨⟨_, rfl, by decide⟩, ⟨_, rfl, by decide⟩, ⟨_, rfl, by decide⟩⟩

theorem witness_ClockIsPulledOnlyWithEdgesOff :
    ∃ t, step (facing .rxoff twoUnread) = .next t ∧ t.clk = { dir := true, lvl := false } ∧
      twoUnread.clk ≠ { dir := true, lvl := false } := ⟨_, rfl, by decide⟩

theorem witness_TimingIsReadByNoRule :
    forgetTiming (facing (.send 0x05) State.reset) =
      forgetTiming { facing (.send 0x05) State.reset with
        timerPer := 2, params := { Params.vectors with tWatchdog := 1, hostPortBase := 0x80 } } := by decide

theorem witness_EitherOrderOfAckAndBark :
    let s : State := { sampleAt .awaitingAck with bark := 1 }
    AcceptsEdge s .awaitingAck ∧ s.timerEn = true ∧ s.bark = 1 := by decide

theorem witness_StepKeepsCoherence :
    [.idle, .receivingData, .receivingParity, .receivingStop, .transmittingData, .transmittingParity,
      .transmittingStop, .awaitingAck, .awaitingIdle, .error].all (fun p => decide (Coherent (sampleAt p))) = true ∧
    Coherent handshaking ∧ Coherent holding ∧ Coherent twoUnread ∧
    (∃ t, step (facing .getb twoUnread) = .next t) := by
  refine ⟨by decide, by decide, by decide, by decide, ⟨_, rfl⟩⟩

theorem witness_PowerOnIsCoherent :
    ({ Params.vectors with cap := 2, cntW := 1, barkRts := 1, barkBit := 1, idleWait := 1 } : Params).wellFormed =
      true := by decide

theorem witness_CoherentStateAlwaysSteps : Coherent (facing (.edge true) twoUnread) ∧ Live twoUnread := by decide

/-- A few turns of the agenda. -/
def stepTimes : Nat → State → Out
  | 0, s => .next s
  | n + 1, s =>
    match step s with
    | .next t => stepTimes n t
    | .fault r => .fault r
    | .refused r => .refused r

/-- What a few turns leave is reachable. -/
theorem reachable_run {p : Params} {s t : State} (h : Reachable p s) (n : Nat)
    (ht : stepTimes n s = .next t) : Reachable p t := by
  induction n generalizing s with
  | zero => cases ht; exact h
  | succ n ih =>
    unfold stepTimes at ht
    split at ht
    · exact ih (.step h ‹_›) ht
    · cases ht
    · cases ht

theorem witness_ReachableStatesKeepControl :
    (∃ s, Reachable Params.vectors s ∧ s.fault = none ∧ InPhase s .requestingSend) ∧
    (∃ s, Reachable Params.vectors s ∧ s.fault = none ∧ InWatched s) ∧
    (∃ s, Reachable Params.vectors s ∧ s.fault = none ∧ InPhase s .awaitingIdle) ∧
    (∃ s, Reachable Params.vectors s ∧ s.fault = none ∧ InPhase s .error) :=
  ⟨⟨_, reachable_run (.powerOn [.stimulus 0x405#12]) 1 rfl, rfl, rfl⟩,
    ⟨_, reachable_run (.powerOn [.stimulus 0x201#12, .stimulus 0x800#12]) 2 rfl, rfl, .inl rfl⟩,
    ⟨_, reachable_run (.powerOn (.stimulus 0x405#12 :: .stimulus 0x903#12 :: List.replicate 11 (.stimulus 0x800#12)))
      13 rfl, rfl, rfl⟩,
    ⟨_, reachable_run (.powerOn [.stimulus 0x201#12, .stimulus 0x801#12]) 2 rfl, rfl, rfl⟩⟩

theorem witness_PushRaisesCountModuloCap :
    twoUnread.head < twoUnread.params.cap ∧ twoUnread.tail < twoUnread.params.cap := by decide

theorem witness_AvailableByteIsReturned :
    ∃ t, exec .avail twoUnread = .next t ∧ Coherent twoUnread ∧ AcceptsCommand twoUnread ∧ t.result = .bit true :=
  ⟨_, rfl, by decide, by decide, by decide⟩

theorem witness_FramesAreDrainedInOrder :
    Coherent wrappedEmpty ∧ AcceptsCommand wrappedEmpty ∧ wrappedEmpty.edgeEn = true ∧ InPhase wrappedEmpty .idle ∧
      wrappedEmpty.head = wrappedEmpty.tail ∧
      ([0x10, 0x20, 0x30] : List Byte).length ≤ wrappedEmpty.params.cap - 1 :=
  ⟨by decide, by decide, rfl, rfl, rfl, by decide⟩

theorem witness_OverflowKeepsOnlyTheNewest :
    Coherent wrappedEmpty ∧ AcceptsCommand wrappedEmpty ∧ wrappedEmpty.edgeEn = true ∧ InPhase wrappedEmpty .idle ∧
      wrappedEmpty.head = wrappedEmpty.tail ∧
      ([0x10, 0x20, 0x30, 0x40] : List Byte).length = wrappedEmpty.params.cap :=
  ⟨by decide, by decide, rfl, rfl, rfl, rfl⟩

theorem witness_ReceiveFrame :
    AcceptsEdge twoUnread .idle ∧ twoUnread.recPhase = false ∧ twoUnread.head < twoUnread.params.cap ∧
      (bitXor 0x41 ^^ true) = true ∧ (bitXor 0x41 ^^ false) = false := by decide

theorem witness_TransmitFrame :
    AcceptsEdge (sampleAt .transmittingData) .transmittingData ∧ (sampleAt .transmittingData).shift = 0x41 ∧
      (sampleAt .transmittingData).bitcnt = 8 ∧ (sampleAt .transmittingData).parity = false ∧
      (sampleAt .transmittingData).recPhase = false ∧ (List.replicate 10 true).length = 10 := by decide

theorem witness_TransmittedFrameIsReceived :
    AcceptsEdge (sampleAt .transmittingData) .transmittingData ∧ (sampleAt .transmittingData).shift = 0x41 ∧
      (sampleAt .transmittingData).bitcnt = 8 ∧ (sampleAt .transmittingData).parity = false ∧
      (List.replicate 9 true).length = 9 ∧ AcceptsEdge twoUnread .idle ∧ twoUnread.head < twoUnread.params.cap := by
  decide

theorem witness_BarkExpiresExactly :
    Live (sampleAt .receivingData) ∧ (sampleAt .receivingData).timerEn = true ∧ InWatched (sampleAt .receivingData) ∧
      Sound (sampleAt .receivingData) ∧ (sampleAt .receivingData).bark = 1 + 1 ∧ [(true, true)].length = 1 := by decide

theorem witness_ErrorRecoversInTwoTicks :
    Live (sampleAt .error) ∧ (sampleAt .error).timerEn = true ∧ InPhase (sampleAt .error) .error ∧
      (sampleAt .error).recPhase = false := by decide

theorem witness_TicksAloneReachIdle :
    Coherent handshaking ∧ Live handshaking ∧ handshaking.timerEn = true ∧
      2 ^ handshaking.params.cntW + 3 ≤ (List.replicate 19 (false, false)).length := by decide

/-! ### A fair run in which a send returns -/

/-- The bus is idle at the tick, then the host returns. -/
def sendRun : Nat → State
  | 0 => { sampleAt .awaitingIdle with hostPhase := 2 }
  | 1 => { sampleAt .idle with hostPhase := 2, timerEn := false }
  | _ + 2 => { sampleAt .idle with timerEn := false }

def sendTurn : Nat → Turn
  | 0 => .stimulus (encode (.tick true true))
  | _ + 1 => .hostStep

theorem sendRun_disarmed (n : Nat) : (sendRun (n + 1)).timerEn = false := by cases n <;> rfl

theorem witness_EverySendReturns :
    Coherent (sendRun 0) ∧ IsRun sendRun sendTurn ∧ TickFair sendRun sendTurn ∧ HostStronglyFair sendRun sendTurn ∧
      ¬ HostReady (sendRun 0) := by
  refine ⟨by decide, fun n => ?_, fun n h => ?_, fun n h => ?_, by decide⟩
  · match n with
    | 0 => rfl
    | 1 => rfl
    | _ + 2 => rfl
  · exact absurd (h (n + 1) (Nat.le_succ n)) (by simp [sendRun_disarmed])
  · obtain ⟨m, hm, he⟩ := h (n + 2) (Nat.le_add_right n 2)
    match m, hm, he with
    | k + 2, _, he => cases he

end Sys2Proof.Tests
end

/-! Scope: a step runs the decoded stimulus (O6), and no rule reads TIMER_PER, the `T_*` or HOST_PORT_BASE (O43). -/

namespace Sys2Proof.Machine

open Sys2Proof.Claims

/-! ## The step, turn by turn -/

theorem step_of_fault {s : State} {k : FaultKind} (hf : s.fault = some k) : step s = k.stop :=
  whenLive_of_fault hf _

theorem step_of_no_turn {s : State} (hl : Live s) (ha : s.agenda = []) : step s = .next s := by
  simp [step, whenLive_of_live hl, ha]

theorem step_of_hostStep {s : State} {rest : List Turn} (hl : Live s) (ha : s.agenda = .hostStep :: rest) :
    step s = .next (hostInternal (takeHostStep s rest)) := by
  simp [step, whenLive_of_live hl, ha]

theorem step_of_decoded {s : State} {w : Word} {rest : List Turn} {i : Instr} (hl : Live s)
    (ha : s.agenda = .stimulus w :: rest) (hd : decode w = .ok i) : step s = exec i (takeStimulus s rest) := by
  simp [step, whenLive_of_live hl, ha, hd]

theorem step_of_reserved {s : State} {w : Word} {rest : List Turn} {e : DecodeError} (hl : Live s)
    (ha : s.agenda = .stimulus w :: rest) (hd : decode w = .error e) :
    step s = .next (record (decodeFault e) (takeStimulus s rest)) := by
  simp [step, whenLive_of_live hl, ha, hd]

/-- Settles O6, by the step's equation for a turn whose word decodes. -/
theorem stepRunsDecodedStimulus : Obligations.StepRunsDecodedStimulus :=
  fun _ _ _ _ ha hd hl => step_of_decoded hl ha hd

/-! ## Timing is read by no rule (10_state.md R31, 00_scope.md R9, 20_memory.md R61, 70_reset_and_hazards.md R247)

Two states that agree but for the timing have one common image under `forgetTiming`. So it is enough to compare a
meaning at one state with itself at that image, and this comparison passes through every guard and every test of the
meanings. Where no test is left it holds by definition: the record the meaning writes names none of the timing. -/

/-- The outcome with the timing of its next state forgotten. -/
def forgetOut : Out → Out
  | .next s => .next (forgetTiming s)
  | .fault r => .fault r
  | .refused r => .refused r

theorem sameButTiming_iff {o o' : Out} : SameButTiming o o' ↔ forgetOut o = forgetOut o' := by
  cases o <;> cases o' <;> simp [SameButTiming, forgetOut]

/-- Forgetting the timing before `f` changes nothing of what `f` answers but the timing. -/
def IgnoresTiming (f : State → Out) : Prop := ∀ s, forgetOut (f (forgetTiming s)) = forgetOut (f s)

theorem IgnoresTiming.sameButTiming {f : State → Out} (hf : IgnoresTiming f) {s t : State}
    (h : forgetTiming s = forgetTiming t) : SameButTiming (f s) (f t) :=
  sameButTiming_iff.mpr <| calc
    forgetOut (f s) = forgetOut (f (forgetTiming s)) := (hf s).symm
    _ = forgetOut (f (forgetTiming t)) := by rw [h]
    _ = forgetOut (f t) := hf t

/-! ### The shared operations -/

/-- A test whose condition reads no timing; for each condition of the model that is so by definition. -/
theorem IgnoresTiming.ite {c : State → Prop} [DecidablePred c] {f g : State → Out}
    (hf : IgnoresTiming f) (hg : IgnoresTiming g)
    (hc : ∀ s, c (forgetTiming s) ↔ c s := by exact fun _ => Iff.rfl) :
    IgnoresTiming (fun s => if c s then f s else g s) := by
  intro s
  by_cases h : c s
  · simpa [hc, h] using hf s
  · simpa [hc, h] using hg s

/-- The same for an update of the state that tests a condition. -/
theorem IgnoresTiming.next_ite {c : State → Prop} [DecidablePred c] {f g : State → State}
    (hf : IgnoresTiming (fun s => .next (f s))) (hg : IgnoresTiming (fun s => .next (g s)))
    (hc : ∀ s, c (forgetTiming s) ↔ c s := by exact fun _ => Iff.rfl) :
    IgnoresTiming (fun s => .next (if c s then f s else g s)) := by
  simpa only [apply_ite] using IgnoresTiming.ite hf hg hc

theorem IgnoresTiming.whenLive {f : State → Out} (hf : IgnoresTiming f) :
    IgnoresTiming (fun s => whenLive s (f s)) := by
  intro s
  cases h : s.fault with
  | none =>
    have h' : Live (forgetTiming s) := h
    simpa only [whenLive_of_live h, whenLive_of_live h'] using hf s
  | some k =>
    have h' : (forgetTiming s).fault = some k := h
    simp only [whenLive_of_fault h, whenLive_of_fault h']

theorem IgnoresTiming.whenSound {f : ProtocolState → State → Out} (hf : ∀ p, IgnoresTiming (f p)) :
    IgnoresTiming (fun s => whenSound s (fun p => f p s)) := by
  intro s
  obtain ⟨p, hp, hs, h⟩ | ⟨hs, h⟩ := whenSound_cases s (fun p => f p s)
  · have hp' : InPhase (forgetTiming s) p := hp
    simpa only [h, whenSound_of_phase hp' hs] using hf p s
  · have hs' : ¬ Sound (forgetTiming s) := hs
    simp only [h, whenSound_of_unsound hs']
    rfl

theorem IgnoresTiming.hostCommand {f : State → Out} (hf : IgnoresTiming f) :
    IgnoresTiming (fun s => hostCommand s (f s)) :=
  .whenLive (.ite (.whenSound fun _ => hf) fun _ => rfl)

theorem pushByte_ignoresTiming (b : Byte) : IgnoresTiming (pushByte b) := .ite (fun _ => rfl) fun _ => rfl

theorem popByte_ignoresTiming : IgnoresTiming popByte := .ite (fun _ => rfl) fun _ => rfl

theorem requestRecovery_ignoresTiming : IgnoresTiming (fun s => .next (requestRecovery s)) :=
  .next_ite (fun _ => rfl) fun _ => rfl

theorem forgetOut_afterEdge (o : Out) : forgetOut (afterEdge (forgetOut o)) = forgetOut (afterEdge o) := by
  cases o with
  | next s => exact requestRecovery_ignoresTiming s
  | fault r => rfl
  | refused r => rfl

theorem IgnoresTiming.afterEdge {f : State → Out} (hf : IgnoresTiming f) :
    IgnoresTiming (fun s => afterEdge (f s)) :=
  fun s => by rw [← forgetOut_afterEdge, hf s, forgetOut_afterEdge]

/-! ### The meanings -/

theorem edgeArm_ignoresTiming (d : Bool) (p : ProtocolState) : IgnoresTiming (fun s => edgeArm d s p) := by
  cases p with
  | idle | receivingParity | awaitingAck => exact .ite (fun _ => rfl) fun _ => rfl
  | receivingStop =>
    exact .ite (fun s => pushByte_ignoresTiming s.shift { s with state := ProtocolState.idle.code, timerEn := false })
      fun _ => rfl
  | receivingData | requestingSend | transmittingData | transmittingParity | transmittingStop | awaitingIdle | error =>
    exact fun _ => rfl

theorem tickWatched_ignoresTiming : IgnoresTiming (fun s => .next (tickWatched s)) :=
  .next_ite (fun _ => rfl) (.next_ite (fun _ => rfl) fun _ => rfl)

theorem tickAwaitingIdle_ignoresTiming (c d : Bool) : IgnoresTiming (fun s => .next (tickAwaitingIdle c d s)) :=
  .next_ite (fun _ => rfl) (.next_ite (fun _ => rfl) (.next_ite (fun _ => rfl) fun _ => rfl))

theorem tickArm_ignoresTiming (c d : Bool) (p : ProtocolState) :
    IgnoresTiming (fun s => .next (tickArm c d s p)) := by
  cases p with
  | idle | requestingSend => exact fun _ => rfl
  | awaitingIdle => exact tickAwaitingIdle_ignoresTiming c d
  | error => exact .next_ite (fun _ => rfl) fun _ => rfl
  | receivingData | receivingParity | receivingStop | transmittingData | transmittingParity | transmittingStop
  | awaitingAck => exact tickWatched_ignoresTiming

theorem exec_ignoresTiming (i : Instr) : IgnoresTiming (exec i) := by
  cases i with
  | init | rxoff | rxon | busy | avail => exact .hostCommand fun _ => rfl
  | send b => exact .hostCommand (.next_ite (fun _ => rfl) fun _ => rfl)
  | getb => exact .hostCommand (.ite popByte_ignoresTiming fun _ => rfl)
  | edge d => exact .whenLive (.ite (.whenSound fun p => .afterEdge (edgeArm_ignoresTiming d p)) fun _ => rfl)
  | tick c d => exact .whenLive (.ite (.whenSound fun p => tickArm_ignoresTiming c d p) fun _ => rfl)

theorem hostInternal_ignoresTiming : IgnoresTiming (fun s => .next (hostInternal s)) :=
  .next_ite (fun _ => rfl) (.next_ite (fun _ => rfl) fun _ => rfl)

/-- Taking the turn and forgetting the timing commute, so each turn's case is what its meaning does there. -/
theorem step_ignoresTiming : IgnoresTiming step := by
  intro s
  cases hf : s.fault with
  | some k =>
    have hf' : (forgetTiming s).fault = some k := hf
    rw [step_of_fault hf, step_of_fault hf']
  | none =>
    have hl : Live s := hf
    have hl' : Live (forgetTiming s) := hf
    match ha : s.agenda with
    | [] =>
      rw [step_of_no_turn hl ha, step_of_no_turn hl' ha]
      rfl
    | .hostStep :: rest =>
      rw [step_of_hostStep hl ha, step_of_hostStep hl' ha]
      exact hostInternal_ignoresTiming (takeHostStep s rest)
    | .stimulus w :: rest =>
      cases hd : decode w with
      | ok i =>
        rw [step_of_decoded hl ha hd, step_of_decoded hl' ha hd]
        exact exec_ignoresTiming i (takeStimulus s rest)
      | error e =>
        rw [step_of_reserved hl ha hd, step_of_reserved hl' ha hd]
        rfl

/-- Settles O43: the step ignores the timing, and states that differ only there have one image without it. -/
theorem timingIsReadByNoRule : Obligations.TimingIsReadByNoRule :=
  fun _ _ h => step_ignoresTiming.sameButTiming h

end Sys2Proof.Machine

/-! Scope: the state's registers and their invariant: who writes each register (O39), coherence over every step (O45,
O47, O48, O49), a blocked send (O38), and the codes, faults and lost edges (O4, O8, O15, O16). -/

namespace Sys2Proof.Machine

/-! ## What an edge's arm and a tick's arm leave unchanged (10_state.md R20) -/

/-- The registers no edge's arm writes. -/
structure EdgeFrame (s u : State) : Prop where
  params : u.params = s.params
  agenda : u.agenda = s.agenda
  hostByte : u.hostByte = s.hostByte
  hostPhase : u.hostPhase = s.hostPhase
  pending : u.pending = s.pending
  tail : u.tail = s.tail
  edgeEn : u.edgeEn = s.edgeEn
  recPhase : u.recPhase = s.recPhase
  result : u.result = s.result
  fault : u.fault = s.fault

theorem EdgeOutcome.frame {d : Bool} {s u : State} (h : EdgeOutcome d s u) : EdgeFrame s u := by
  cases h <;> exact ⟨rfl, rfl, rfl, rfl, rfl, rfl, rfl, rfl, rfl, rfl⟩

/-- The registers no tick's arm writes. -/
structure TickFrame (s u : State) : Prop where
  params : u.params = s.params
  agenda : u.agenda = s.agenda
  hostByte : u.hostByte = s.hostByte
  hostPhase : u.hostPhase = s.hostPhase
  pending : u.pending = s.pending
  rxbuf : u.rxbuf = s.rxbuf
  head : u.head = s.head
  tail : u.tail = s.tail
  result : u.result = s.result
  fault : u.fault = s.fault

theorem TickOutcome.frame {c d : Bool} {s u : State} (h : TickOutcome c d s u) : TickFrame s u := by
  cases h <;> exact ⟨rfl, rfl, rfl, rfl, rfl, rfl, rfl, rfl, rfl, rfl⟩

/-! ## Who writes each register (10_state.md R20)

Each lemma takes the outcomes of a stimulus apart; the edge's and the tick's own outcomes are asked only where an arm
writes the register. -/

theorem ExecOutcome.params {i : Instr} {s t : State} (ho : ExecOutcome s i t) : t.params = s.params := by
  cases ho with
  | edge _ _ hu => simpa using hu.frame.params
  | tick _ _ hu => exact hu.frame.params
  | _ => rfl

theorem ExecOutcome.agenda {i : Instr} {s t : State} (ho : ExecOutcome s i t) : t.agenda = s.agenda := by
  cases ho with
  | edge _ _ hu => simpa using hu.frame.agenda
  | tick _ _ hu => exact hu.frame.agenda
  | _ => rfl

theorem ExecOutcome.hostByte_of_send {b : Byte} {s t : State} (ho : ExecOutcome s (.send b) t) (hl : Live s) :
    t.hostByte = if t.hostPhase = 1 ∧ t.fault = none then b else s.hostByte := by
  cases ho with
  | blocked | badState => simp
  | sendStart => simp [hostWaitDone]
  | sendWait => simp [hostWaitStart, show s.fault = none from hl]

theorem ExecOutcome.hostByte_of_not_send {i : Instr} {s t : State} (ho : ExecOutcome s i t)
    (hi : ∀ b, i ≠ .send b) : t.hostByte = s.hostByte := by
  cases ho with
  | sendWait => exact absurd rfl (hi _)
  | edge _ _ hu => simpa using hu.frame.hostByte
  | tick _ _ hu => exact hu.frame.hostByte
  | _ => rfl

theorem EdgeOutcome.writes_buffer {d : Bool} {s u : State} (hu : EdgeOutcome d s u) :
    (u.rxbuf = s.rxbuf ∧ u.head = s.head) ∨
      (d = true ∧ InPhase s .receivingStop ∧ u.rxbuf = Memory.write s.rxbuf s.head s.shift) := by
  cases hu with
  | goodStop hp hd => exact .inr ⟨hd, hp, rfl⟩
  | _ => exact .inl ⟨rfl, rfl⟩

theorem ExecOutcome.rxbuf_writer {i : Instr} {s t : State} {slot : Nat} (ho : ExecOutcome s i t)
    (hne : Memory.read t.rxbuf slot ≠ Memory.read s.rxbuf slot) :
    i = .edge true ∧ s.edgeEn = true ∧ InPhase s .receivingStop ∧ slot = s.head := by
  cases ho with
  | edge he _ hu =>
    rw [requestRecovery_rxbuf] at hne
    obtain ⟨h, -⟩ | ⟨rfl, hp, h⟩ := hu.writes_buffer
    · exact absurd (by rw [h]) hne
    · rw [h] at hne
      exact ⟨rfl, he, hp, by_contra fun hs => hne (Memory.read_write_other _ _ _ _ hs)⟩
  | tick _ _ hu => exact absurd (by rw [hu.frame.rxbuf]) hne
  | _ => exact absurd rfl hne

theorem ExecOutcome.head_writer {i : Instr} {s t : State} (ho : ExecOutcome s i t) (hne : t.head ≠ s.head) :
    i = .init ∨ (i = .edge true ∧ s.edgeEn = true ∧ InPhase s .receivingStop) := by
  cases ho with
  | init => exact .inl rfl
  | edge he _ hu =>
    rw [requestRecovery_head] at hne
    obtain ⟨-, h⟩ | ⟨rfl, hp, -⟩ := hu.writes_buffer
    · exact absurd h hne
    · exact .inr ⟨rfl, he, hp⟩
  | tick _ _ hu => exact absurd hu.frame.head hne
  | _ => exact absurd rfl hne

theorem ExecOutcome.tail_writer {i : Instr} {s t : State} (ho : ExecOutcome s i t) (hne : t.tail ≠ s.tail) :
    i = .init ∨ i = .getb := by
  cases ho with
  | init => exact .inl rfl
  | getb => exact .inr rfl
  | edge _ _ hu => exact absurd ((requestRecovery_tail _).trans hu.frame.tail) hne
  | tick _ _ hu => exact absurd hu.frame.tail hne
  | _ => exact absurd rfl hne

theorem ExecOutcome.pending_writer {i : Instr} {s t : State} (ho : ExecOutcome s i t) (hne : t.pending ≠ s.pending) :
    ∃ b, i = .send b ∧ InPhase s .idle := by
  cases ho with
  | sendStart _ _ hp => exact ⟨_, rfl, hp⟩
  | edge _ _ hu => exact absurd ((requestRecovery_pending _).trans hu.frame.pending) hne
  | tick _ _ hu => exact absurd hu.frame.pending hne
  | _ => exact absurd rfl hne

theorem ExecOutcome.hostPhase_writer {i : Instr} {s t : State} (ho : ExecOutcome s i t)
    (hne : t.hostPhase ≠ s.hostPhase) : ∃ b, i = .send b := by
  cases ho with
  | sendStart | sendWait => exact ⟨_, rfl⟩
  | edge _ _ hu => exact absurd ((requestRecovery_hostPhase _).trans hu.frame.hostPhase) hne
  | tick _ _ hu => exact absurd hu.frame.hostPhase hne
  | _ => exact absurd rfl hne

theorem TickOutcome.shift_bitcnt_parity_writer {c d : Bool} {s u : State} (hu : TickOutcome c d s u)
    (hne : u.shift ≠ s.shift ∨ u.bitcnt ≠ s.bitcnt ∨ u.parity ≠ s.parity) :
    InPhase s .requestingSend ∨ (InPhase s .error ∧ s.recPhase = true) := by
  cases hu with
  | handshake hp => exact .inl hp
  | recoveryEnd hp hr => exact .inr ⟨hp, hr⟩
  | _ => simp at hne

theorem ExecOutcome.shift_bitcnt_parity_writer {i : Instr} {s t : State} (ho : ExecOutcome s i t)
    (hne : t.shift ≠ s.shift ∨ t.bitcnt ≠ s.bitcnt ∨ t.parity ≠ s.parity) :
    (∃ d, i = .edge d ∧ s.edgeEn = true) ∨
      (∃ c d, i = .tick c d ∧ (InPhase s .requestingSend ∨ (InPhase s .error ∧ s.recPhase = true))) := by
  cases ho with
  | edge he => exact .inl ⟨_, rfl, he⟩
  | tick _ _ hu => exact .inr ⟨_, _, rfl, hu.shift_bitcnt_parity_writer hne⟩
  | _ => simp at hne

theorem TickOutcome.bark_writer {c d : Bool} {s u : State} (hu : TickOutcome c d s u) (hne : u.bark ≠ s.bark) :
    InPhase s .requestingSend ∨ InWatched s := by
  cases hu with
  | handshake hp => exact .inl hp
  | barkDown hp | barked hp => exact .inr hp
  | _ => exact absurd rfl hne

theorem ExecOutcome.bark_writer {i : Instr} {s t : State} (ho : ExecOutcome s i t) (hne : t.bark ≠ s.bark) :
    (∃ d, i = .edge d ∧ s.edgeEn = true) ∨
      (∃ c d, i = .tick c d ∧ (InPhase s .requestingSend ∨ InWatched s)) := by
  cases ho with
  | edge he => exact .inl ⟨_, rfl, he⟩
  | tick _ _ hu => exact .inr ⟨_, _, rfl, hu.bark_writer hne⟩
  | _ => exact absurd rfl hne

theorem EdgeOutcome.idlecnt_writer {d : Bool} {s u : State} (hu : EdgeOutcome d s u) (hne : u.idlecnt ≠ s.idlecnt) :
    d = false ∧ InPhase s .awaitingAck := by
  cases hu with
  | acknowledged hp hd => exact ⟨hd, hp⟩
  | _ => exact absurd rfl hne

theorem TickOutcome.idlecnt_writer {c d : Bool} {s u : State} (hu : TickOutcome c d s u)
    (hne : u.idlecnt ≠ s.idlecnt) : InPhase s .awaitingIdle := by
  cases hu with
  | idleDown hp | idleTimeout hp => exact hp
  | _ => exact absurd rfl hne

theorem ExecOutcome.idlecnt_writer {i : Instr} {s t : State} (ho : ExecOutcome s i t) (hne : t.idlecnt ≠ s.idlecnt) :
    (i = .edge false ∧ InPhase s .awaitingAck) ∨ (∃ c d, i = .tick c d ∧ InPhase s .awaitingIdle) := by
  cases ho with
  | edge _ _ hu =>
    rw [requestRecovery_idlecnt] at hne
    obtain ⟨rfl, hp⟩ := hu.idlecnt_writer hne
    exact .inl ⟨rfl, hp⟩
  | tick _ _ hu => exact .inr ⟨_, _, rfl, hu.idlecnt_writer hne⟩
  | _ => exact absurd rfl hne

theorem ExecOutcome.state_writer {i : Instr} {s t : State} (ho : ExecOutcome s i t) (hne : t.state ≠ s.state) :
    i = .init ∨ i = .rxon ∨ (∃ b, i = .send b) ∨ (∃ d, i = .edge d) ∨ ∃ c d, i = .tick c d := by
  cases ho with
  | init => exact .inl rfl
  | rxon => exact .inr (.inl rfl)
  | sendStart => exact .inr (.inr (.inl ⟨_, rfl⟩))
  | edge => exact .inr (.inr (.inr (.inl ⟨_, rfl⟩)))
  | tick => exact .inr (.inr (.inr (.inr ⟨_, _, rfl⟩)))
  | _ => exact absurd rfl hne

theorem ExecOutcome.edgeEn_writer {i : Instr} {s t : State} (ho : ExecOutcome s i t) (hne : t.edgeEn ≠ s.edgeEn) :
    i = .init ∨ i = .rxon ∨ i = .rxoff ∨ (∃ b, i = .send b) ∨ ∃ c d, i = .tick c d := by
  cases ho with
  | init => exact .inl rfl
  | rxon => exact .inr (.inl rfl)
  | rxoff => exact .inr (.inr (.inl rfl))
  | sendStart => exact .inr (.inr (.inr (.inl ⟨_, rfl⟩)))
  | edge _ _ hu => exact absurd ((requestRecovery_edgeEn _).trans hu.frame.edgeEn) hne
  | tick => exact .inr (.inr (.inr (.inr ⟨_, _, rfl⟩)))
  | _ => exact absurd rfl hne

theorem ExecOutcome.timerEn_writer {i : Instr} {s t : State} (ho : ExecOutcome s i t) (hne : t.timerEn ≠ s.timerEn) :
    i = .init ∨ (∃ b, i = .send b) ∨ (∃ d, i = .edge d) ∨ ∃ c d, i = .tick c d := by
  cases ho with
  | init => exact .inl rfl
  | sendStart => exact .inr (.inl ⟨_, rfl⟩)
  | edge => exact .inr (.inr (.inl ⟨_, rfl⟩))
  | tick => exact .inr (.inr (.inr ⟨_, _, rfl⟩))
  | _ => exact absurd rfl hne

theorem ExecOutcome.timerPer_writer {i : Instr} {s t : State} (ho : ExecOutcome s i t)
    (hne : t.timerPer ≠ s.timerPer) : (∃ b, i = .send b) ∨ (∃ d, i = .edge d) ∨ ∃ c d, i = .tick c d := by
  cases ho with
  | sendStart => exact .inl ⟨_, rfl⟩
  | edge => exact .inr (.inl ⟨_, rfl⟩)
  | tick => exact .inr (.inr ⟨_, _, rfl⟩)
  | _ => exact absurd rfl hne

theorem ExecOutcome.recPhase_writer {i : Instr} {s t : State} (ho : ExecOutcome s i t)
    (hne : t.recPhase ≠ s.recPhase) : i = .init ∨ i = .rxon ∨ ∃ c d, i = .tick c d := by
  cases ho with
  | init => exact .inl rfl
  | rxon => exact .inr (.inl rfl)
  | edge _ _ hu => exact absurd ((requestRecovery_recPhase _).trans hu.frame.recPhase) hne
  | tick => exact .inr (.inr ⟨_, _, rfl⟩)
  | _ => exact absurd rfl hne

theorem EdgeOutcome.clk_writer {d : Bool} {s u : State} (hu : EdgeOutcome d s u) (hne : u.clk ≠ s.clk) :
    InPhase s .transmittingStop := by
  cases hu with
  | transmittedStop hp => exact hp
  | _ => exact absurd rfl hne

theorem ExecOutcome.clk_writer {i : Instr} {s t : State} (ho : ExecOutcome s i t) (hne : t.clk ≠ s.clk) :
    i = .init ∨ i = .rxon ∨ i = .rxoff ∨ (∃ b, i = .send b) ∨ (∃ c d, i = .tick c d) ∨
      ∃ d, i = .edge d ∧ InPhase s .transmittingStop := by
  cases ho with
  | init => exact .inl rfl
  | rxon => exact .inr (.inl rfl)
  | rxoff => exact .inr (.inr (.inl rfl))
  | sendStart => exact .inr (.inr (.inr (.inl ⟨_, rfl⟩)))
  | tick => exact .inr (.inr (.inr (.inr (.inl ⟨_, _, rfl⟩))))
  | edge _ _ hu =>
    rw [requestRecovery_clk] at hne
    exact .inr (.inr (.inr (.inr (.inr ⟨_, rfl, hu.clk_writer hne⟩))))
  | _ => exact absurd rfl hne

theorem EdgeOutcome.dat_writer {d : Bool} {s u : State} (hu : EdgeOutcome d s u) (hne : u.dat ≠ s.dat) :
    InPhase s .transmittingData ∨ InPhase s .transmittingParity ∨ InPhase s .transmittingStop := by
  cases hu with
  | transmittedBit hp | transmittedLastBit hp => exact .inl hp
  | transmittedParity hp => exact .inr (.inl hp)
  | transmittedStop hp => exact .inr (.inr hp)
  | _ => exact absurd rfl hne

theorem ExecOutcome.dat_writer {i : Instr} {s t : State} (ho : ExecOutcome s i t) (hne : t.dat ≠ s.dat) :
    i = .init ∨ i = .rxon ∨ i = .rxoff ∨ (∃ b, i = .send b) ∨ (∃ c d, i = .tick c d) ∨
      ∃ d, i = .edge d ∧
        (InPhase s .transmittingData ∨ InPhase s .transmittingParity ∨ InPhase s .transmittingStop) := by
  cases ho with
  | init => exact .inl rfl
  | rxon => exact .inr (.inl rfl)
  | rxoff => exact .inr (.inr (.inl rfl))
  | sendStart => exact .inr (.inr (.inr (.inl ⟨_, rfl⟩)))
  | tick => exact .inr (.inr (.inr (.inr (.inl ⟨_, _, rfl⟩))))
  | edge _ _ hu =>
    rw [requestRecovery_dat] at hne
    exact .inr (.inr (.inr (.inr (.inr ⟨_, rfl, hu.dat_writer hne⟩))))
  | _ => exact absurd rfl hne

theorem ExecOutcome.result_writer {i : Instr} {s t : State} (ho : ExecOutcome s i t) (hne : t.result ≠ s.result) :
    i = .busy ∨ i = .avail ∨ i = .getb := by
  cases ho with
  | busy => exact .inl rfl
  | avail => exact .inr (.inl rfl)
  | getb => exact .inr (.inr rfl)
  | edge _ _ hu => exact absurd ((requestRecovery_result _).trans hu.frame.result) hne
  | tick _ _ hu => exact absurd hu.frame.result hne
  | _ => exact absurd rfl hne

/-- Settles O39, register by register. -/
theorem registersHaveTheirWriters : Obligations.RegistersHaveTheirWriters := by
  intro i s t h
  obtain ⟨hl, ho⟩ := exec_outcome h
  refine ⟨ho.params, ho.agenda, ?_, fun _ => ho.rxbuf_writer, ho.head_writer, ho.tail_writer, ho.pending_writer,
    ho.hostPhase_writer, ho.shift_bitcnt_parity_writer, ho.bark_writer, ho.idlecnt_writer, ho.state_writer,
    ho.edgeEn_writer, ho.timerEn_writer, ho.timerPer_writer, ho.recPhase_writer, ho.clk_writer,
    ho.dat_writer, ho.result_writer⟩
  cases i with
  | send b => exact ho.hostByte_of_send hl
  | _ => exact ho.hostByte_of_not_send nofun

/-! ## The invariant, phase by phase

In one protocol state most clauses of `Coherent` say nothing. `PhaseOk` keeps what is left of DataCountOk, ControlOk
and HoldOk there, so that a move into a protocol state has only its own few facts to show. -/

/-- What a protocol state asks of the registers (10_state.md R24, R42 items 2 to 6 and 8). -/
def PhaseOk (s : State) : ProtocolState → Prop
  | .idle => s.recPhase = false
  | .receivingData | .transmittingData =>
    1 ≤ s.bitcnt.toNat ∧ s.recPhase = false ∧ 1 ≤ s.bark ∧ s.timerEn = true
  | .receivingParity | .receivingStop | .transmittingParity | .transmittingStop | .awaitingAck =>
    s.recPhase = false ∧ 1 ≤ s.bark ∧ s.timerEn = true
  | .requestingSend => s.recPhase = false ∧ s.timerEn = true ∧ s.edgeEn = false ∧ s.hostPhase = hostWaitDone
  | .awaitingIdle => s.recPhase = false ∧ s.timerEn = true ∧ 1 ≤ s.idlecnt
  | .error => s.timerEn = true ∧ (s.recPhase = true → s.edgeEn = false ∧ s.clk = { dir := true, lvl := false })

theorem phaseOk_iff {s : State} {p : ProtocolState} (hp : InPhase s p) :
    PhaseOk s p ↔ DataCountOk s ∧ ControlOk s ∧ HoldOk s := by
  have hs : s.state = p.code := hp
  cases p <;> simp [PhaseOk, DataCountOk, ControlOk, HoldOk, InPhase, InWatched, hs, ProtocolState.code]

/-- The counters and codes hold values of their widths (RangesOk but for STATE, which `EngineOk` names). -/
def CountersOk (s : State) : Prop :=
  s.bitcnt.toNat ≤ 8 ∧ s.bark < 2 ^ s.params.cntW ∧ s.idlecnt < 2 ^ s.params.cntW ∧ s.timerPer ≠ 3 ∧ s.hostPhase ≠ 3

/-- The clauses of the invariant about the engine, the timer, the lines and the host. -/
def EngineOk (s : State) : Prop := CountersOk s ∧ ClockDriveOk s ∧ ∃ p, InPhase s p ∧ PhaseOk s p

/-- The clauses of the invariant about the receive buffer. -/
def BufferSound (s : State) : Prop := BufferOk s ∧ ReadableWritten s

theorem EngineOk.phaseOk {s : State} {p : ProtocolState} (h : EngineOk s) (hp : InPhase s p) : PhaseOk s p := by
  obtain ⟨-, -, q, hq, h⟩ := h
  exact code_injective (hq.symm.trans hp) ▸ h

theorem engineOk_iff {s : State} :
    EngineOk s ↔ RangesOk s ∧ DataCountOk s ∧ ControlOk s ∧ HoldOk s ∧ ClockDriveOk s := by
  constructor
  · rintro ⟨hcount, hclk, p, hp, h⟩
    obtain ⟨hdata, hcontrol, hhold⟩ := (phaseOk_iff hp).mp h
    have hstate : s.state.toNat ≤ 10 := by
      have hs : s.state = p.code := hp
      rw [hs]
      cases p <;> decide
    exact ⟨⟨hstate, hcount⟩, hdata, hcontrol, hhold, hclk⟩
  · rintro ⟨⟨hstate, hcount⟩, hdata, hcontrol, hhold, hclk⟩
    cases hp : s.phase with
    | none =>
      have := phase_eq_none.mp hp
      omega
    | some p =>
      have hp := phase_eq_some.mp hp
      exact ⟨hcount, hclk, p, hp, (phaseOk_iff hp).mpr ⟨hdata, hcontrol, hhold⟩⟩

theorem coherent_iff {s : State} : Coherent s ↔ LegalParams s ∧ EngineOk s ∧ BufferSound s := by
  rw [engineOk_iff]
  unfold BufferSound
  tauto

/-! ## Legal parameters (00_scope.md R9) -/

theorem load_of_wellFormed {w v : Nat} (h : Params.loadWellFormed w v = true) : 1 ≤ v ∧ v < 2 ^ w := by
  obtain ⟨hlo, hhi⟩ := of_decide_eq_true h
  omega

theorem two_le_cap {p : Params} (h : p.wellFormed = true) : 2 ≤ p.cap := by
  simp [Params.wellFormed] at h
  omega

theorem barkRts_load {p : Params} (h : p.wellFormed = true) : 1 ≤ p.barkRts ∧ p.barkRts < 2 ^ p.cntW :=
  load_of_wellFormed (by simp_all [Params.wellFormed])

theorem barkBit_load {p : Params} (h : p.wellFormed = true) : 1 ≤ p.barkBit ∧ p.barkBit < 2 ^ p.cntW :=
  load_of_wellFormed (by simp_all [Params.wellFormed])

theorem idleWait_load {p : Params} (h : p.wellFormed = true) : 1 ≤ p.idleWait ∧ p.idleWait < 2 ^ p.cntW :=
  load_of_wellFormed (by simp_all [Params.wellFormed])

/-! ## The receive buffer keeps its part of the invariant (20_memory.md R50 to R56) -/

theorem mod_eq_ite_of_lt_two_mul {a n : Nat} (h : a < 2 * n) : a % n = if a < n then a else a - n := by
  split
  · exact Nat.mod_eq_of_lt ‹_›
  · rw [Nat.mod_eq_sub_mod (by omega), Nat.mod_eq_of_lt (by omega)]

/-- The readable count without a remainder (20_memory.md R55). -/
theorem unreadCount_eq_ite {s : State} (hh : s.head < s.params.cap) (ht : s.tail < s.params.cap) :
    unreadCount s = if s.tail ≤ s.head then s.head - s.tail else s.head + s.params.cap - s.tail := by
  rw [unreadCount, mod_eq_ite_of_lt_two_mul (by omega)]
  split <;> split <;> omega

theorem nextSlot_eq_ite {p : Params} {i : Nat} (hi : i < p.cap) :
    nextSlot p i = if i + 1 = p.cap then 0 else i + 1 := by
  rw [nextSlot, mod_eq_ite_of_lt_two_mul (by omega)]
  split <;> split <;> omega

/-- With nothing unread no slot needs to have been written. -/
theorem readableWritten_of_empty {s : State} (h : s.head = s.tail) : ReadableWritten s := by
  have hz : unreadCount s = 0 := by simp [unreadCount, h]
  exact fun i hi => absurd hi (by omega)

theorem bufferSound_of_reset {s : State} (hc : 0 < s.params.cap) (hm : Memory.wf s.rxbuf)
    (hslots : ∀ c ∈ s.rxbuf, c.1 < s.params.cap) (hh : s.head = 0) (ht : s.tail = 0) : BufferSound s :=
  ⟨⟨by omega, by omega, hm, hslots⟩, readableWritten_of_empty (by omega)⟩

/-- A push writes the one slot that becomes readable. -/
theorem BufferSound.push {s t : State} {b : Byte} (h : BufferSound s) (hparams : t.params = s.params)
    (hmem : t.rxbuf = Memory.write s.rxbuf s.head b) (hhead : t.head = nextSlot s.params s.head)
    (htail : t.tail = s.tail) : BufferSound t := by
  obtain ⟨⟨hh, ht, hm, hslots⟩, hread⟩ := h
  have hh' : t.head < t.params.cap := by
    rw [hhead, hparams]
    exact nextSlot_lt (by omega) _
  have ht' : t.tail < t.params.cap := by rwa [htail, hparams]
  refine ⟨⟨hh', ht', hmem ▸ Memory.wf_write _ _ hm, fun c hc => ?_⟩, fun i hi => ?_⟩
  · rw [hparams]
    obtain rfl | hc := Memory.mem_write (hmem ▸ hc)
    · exact hh
    · exact hslots c hc
  · rw [hmem, htail, hparams]
    by_cases hslot : (s.tail + i) % s.params.cap = s.head
    · simp [hslot]
    · rw [Memory.read_write_other _ _ _ _ hslot]
      refine hread i ?_
      rw [unreadCount_eq_ite hh' ht', hhead, htail, hparams, nextSlot_eq_ite hh] at hi
      rw [mod_eq_ite_of_lt_two_mul (by split_ifs at hi <;> omega)] at hslot
      rw [unreadCount_eq_ite hh ht]
      split_ifs at hi hslot ⊢ <;> omega

/-- A pop takes the first readable slot, and the others stay readable. -/
theorem BufferSound.pop {s t : State} (h : BufferSound s) (hne : s.head ≠ s.tail) (hparams : t.params = s.params)
    (hmem : t.rxbuf = s.rxbuf) (hhead : t.head = s.head) (htail : t.tail = nextSlot s.params s.tail) :
    BufferSound t := by
  obtain ⟨⟨hh, ht, hm, hslots⟩, hread⟩ := h
  have hh' : t.head < t.params.cap := by rwa [hhead, hparams]
  have ht' : t.tail < t.params.cap := by
    rw [htail, hparams]
    exact nextSlot_lt (by omega) _
  refine ⟨⟨hh', ht', hmem ▸ hm, by rwa [hmem, hparams]⟩, fun i hi => ?_⟩
  have hi' : i + 1 < unreadCount s := by
    rw [unreadCount_eq_ite hh' ht', hhead, htail, hparams, nextSlot_eq_ite ht] at hi
    rw [unreadCount_eq_ite hh ht]
    split_ifs at hi ⊢ <;> omega
  have hslot : (t.tail + i) % t.params.cap = (s.tail + (i + 1)) % s.params.cap := by
    rw [htail, hparams, nextSlot, Nat.mod_add_mod]
    congr 1
    omega
  rw [hmem, hslot]
  exact hread _ hi'

theorem EdgeOutcome.bufferSound {d : Bool} {s u : State} (hu : EdgeOutcome d s u) (h : BufferSound s) :
    BufferSound u := by
  cases hu with
  | goodStop => exact h.push rfl rfl rfl rfl
  | _ => exact h

theorem TickOutcome.bufferSound {c d : Bool} {s u : State} (hu : TickOutcome c d s u) (h : BufferSound s) :
    BufferSound u := by
  cases hu <;> exact h

theorem BufferSound.requestRecovery {s : State} (h : BufferSound s) : BufferSound (requestRecovery s) := by
  unfold Machine.requestRecovery
  split <;> exact h

theorem ExecOutcome.bufferSound {i : Instr} {s t : State} (ho : ExecOutcome s i t) (hc : LegalParams s)
    (h : BufferSound s) : BufferSound t := by
  cases ho with
  | init =>
    obtain ⟨⟨-, -, hm, hslots⟩, -⟩ := h
    have := two_le_cap hc
    exact bufferSound_of_reset (by simp only; omega) hm hslots rfl rfl
  | getb _ _ hne => exact h.pop hne rfl rfl rfl rfl
  | edge _ _ hu => exact (hu.bufferSound h).requestRecovery
  | tick _ _ hu => exact hu.bufferSound h
  | _ => exact h

/-! ## The engine keeps its part of the invariant -/

/-- After an edge that leaves Error outside the recovery hold, the recovery request arms the timer (R112). -/
theorem engineOk_requestRecovery_of_error {u : State} (hcount : CountersOk u) (hclk : ClockDriveOk u)
    (hp : InPhase u .error) (hrec : u.recPhase = false) : EngineOk (requestRecovery u) := by
  obtain ⟨hbit, hbark, hidle, -, hhost⟩ := hcount
  have hreq : requestRecovery u = { u with timerEn := true, timerPer := perWatchdog } := if_pos ⟨hp, hrec⟩
  rw [hreq]
  exact ⟨⟨hbit, hbark, hidle, (by decide : perWatchdog ≠ 3), hhost⟩, hclk, .error, hp, rfl,
    fun h => by simp [hrec] at h⟩

/-- Outside Error the edge is done with its arm. -/
theorem engineOk_requestRecovery_of_not_error {u : State} {p : ProtocolState} (hcount : CountersOk u)
    (hclk : ClockDriveOk u) (hp : InPhase u p) (hne : p ≠ .error) (h : PhaseOk u p) :
    EngineOk (requestRecovery u) := by
  rw [requestRecovery_of_not_error fun he => hne (code_injective (hp.symm.trans he))]
  exact ⟨hcount, hclk, p, hp, h⟩

theorem toNat_sub_one_bounds {n : BitVec 4} (h : 2 ≤ n.toNat ∧ n.toNat ≤ 8) :
    1 ≤ (n - 1).toNat ∧ (n - 1).toNat ≤ 8 := by
  rw [toNat_sub_one (by omega)]
  omega

theorem EdgeOutcome.engineOk {d : Bool} {s u : State} (hu : EdgeOutcome d s u) (hc : LegalParams s)
    (h : EngineOk s) (he : s.edgeEn = true) : EngineOk (requestRecovery u) := by
  have ⟨hcount, hclk, _⟩ := h
  have ⟨hbit, hbark, hidle, hper, hhost⟩ := hcount
  obtain ⟨hload, hload'⟩ := barkBit_load hc
  cases hu with
  | startBit hp =>
    have hrec := h.phaseOk hp
    exact engineOk_requestRecovery_of_not_error (p := .receivingData)
      ⟨(by decide : (8#4).toNat ≤ 8), hload', hidle, (by decide : perWatchdog ≠ 3), hhost⟩ hclk rfl (by decide)
      ⟨(by decide : 1 ≤ (8#4).toNat), hrec, hload, rfl⟩
  | receivedBit hp hb | transmittedBit hp hb =>
    obtain ⟨-, hrec, -, htimer⟩ := h.phaseOk hp
    obtain ⟨hlo, hhi⟩ := toNat_sub_one_bounds hb
    exact engineOk_requestRecovery_of_not_error ⟨hhi, hload', hidle, hper, hhost⟩ hclk hp (by decide)
      ⟨hlo, hrec, hload, htimer⟩
  | receivedLastBit hp =>
    obtain ⟨-, hrec, -, htimer⟩ := h.phaseOk hp
    exact engineOk_requestRecovery_of_not_error (p := .receivingParity)
      ⟨(by decide : (0#4).toNat ≤ 8), hload', hidle, hper, hhost⟩ hclk rfl (by decide) ⟨hrec, hload, htimer⟩
  | transmittedLastBit hp =>
    obtain ⟨-, hrec, -, htimer⟩ := h.phaseOk hp
    exact engineOk_requestRecovery_of_not_error (p := .transmittingParity)
      ⟨(by decide : (0#4).toNat ≤ 8), hload', hidle, hper, hhost⟩ hclk rfl (by decide) ⟨hrec, hload, htimer⟩
  | goodParity hp =>
    obtain ⟨hrec, -, htimer⟩ := h.phaseOk hp
    exact engineOk_requestRecovery_of_not_error (p := .receivingStop) ⟨hbit, hload', hidle, hper, hhost⟩ hclk rfl
      (by decide) ⟨hrec, hload, htimer⟩
  | transmittedParity hp =>
    obtain ⟨hrec, -, htimer⟩ := h.phaseOk hp
    exact engineOk_requestRecovery_of_not_error (p := .transmittingStop) ⟨hbit, hload', hidle, hper, hhost⟩ hclk rfl
      (by decide) ⟨hrec, hload, htimer⟩
  | transmittedStop hp =>
    obtain ⟨hrec, -, htimer⟩ := h.phaseOk hp
    exact engineOk_requestRecovery_of_not_error (p := .awaitingAck) ⟨hbit, hload', hidle, hper, hhost⟩ nofun rfl
      (by decide) ⟨hrec, hload, htimer⟩
  | acknowledged hp =>
    obtain ⟨hrec, -, htimer⟩ := h.phaseOk hp
    obtain ⟨hwait, hwait'⟩ := idleWait_load hc
    exact engineOk_requestRecovery_of_not_error (p := .awaitingIdle) ⟨hbit, hbark, hwait', hper, hhost⟩ hclk rfl
      (by decide) ⟨hrec, htimer, hwait⟩
  | goodStop hp =>
    obtain ⟨hrec, -⟩ := h.phaseOk hp
    exact engineOk_requestRecovery_of_not_error (p := .idle) hcount hclk rfl (by decide) hrec
  | badStart hp => exact engineOk_requestRecovery_of_error hcount hclk rfl (h.phaseOk hp)
  | badParity hp | badStop hp | noAck hp =>
    obtain ⟨hrec, -⟩ := h.phaseOk hp
    exact engineOk_requestRecovery_of_error hcount hclk rfl hrec
  | ignored hp =>
    obtain hp | hp | hp := hp
    · exact engineOk_requestRecovery_of_not_error hcount hclk hp (by decide) (h.phaseOk hp)
    · exact engineOk_requestRecovery_of_not_error hcount hclk hp (by decide) (h.phaseOk hp)
    · obtain ⟨-, hhold⟩ := h.phaseOk hp
      have hrec : s.recPhase = false := by
        by_contra hrec
        obtain ⟨hoff, -⟩ := hhold (by simpa using hrec)
        simp [hoff] at he
      exact engineOk_requestRecovery_of_error hcount hclk hp hrec

/-- What every watched state asks (10_state.md R42 item 3). -/
theorem PhaseOk.of_watched {s : State} {p : ProtocolState} (h : PhaseOk s p) (hw : p.watched = true) :
    s.recPhase = false ∧ 1 ≤ s.bark ∧ s.timerEn = true := by
  cases p with
  | receivingData | transmittingData => exact h.2
  | receivingParity | receivingStop | transmittingParity | transmittingStop | awaitingAck => exact h
  | idle | requestingSend | awaitingIdle | error => cases hw

/-- A watched state's demands stay met while BARK counts down above 1. -/
theorem PhaseOk.bark_down {s : State} {p : ProtocolState} (h : PhaseOk s p) (hw : p.watched = true)
    (hb : 2 ≤ s.bark) : PhaseOk { s with bark := s.bark - 1 } p := by
  obtain ⟨hrec, -, htimer⟩ := h.of_watched hw
  have hb' : 1 ≤ s.bark - 1 := by omega
  cases p with
  | receivingData | transmittingData => exact ⟨h.1, hrec, hb', htimer⟩
  | receivingParity | receivingStop | transmittingParity | transmittingStop | awaitingAck => exact ⟨hrec, hb', htimer⟩
  | idle | requestingSend | awaitingIdle | error => cases hw

theorem TickOutcome.engineOk {c d : Bool} {s u : State} (hu : TickOutcome c d s u) (hc : LegalParams s)
    (h : EngineOk s) : EngineOk u := by
  have ⟨hcount, hclk, _⟩ := h
  have ⟨hbit, hbark, hidle, hper, hhost⟩ := hcount
  cases hu with
  | stale hp => exact ⟨hcount, hclk, .idle, hp, rfl⟩
  | handshake hp =>
    obtain ⟨hrec, -⟩ := h.phaseOk hp
    obtain ⟨hload, hload'⟩ := barkRts_load hc
    exact ⟨⟨(by decide : (8#4).toNat ≤ 8), hload', hidle, (by decide : perWatchdog ≠ 3), hhost⟩, nofun,
      .transmittingData, rfl, (by decide : 1 ≤ (8#4).toNat), hrec, hload, rfl⟩
  | barkDown hw hb =>
    obtain ⟨p, hw, hp⟩ := inWatched_iff.mp hw
    exact ⟨⟨hbit, by simp only; omega, hidle, hper, hhost⟩, hclk, p, hp, (h.phaseOk hp).bark_down hw hb⟩
  | barked hw =>
    obtain ⟨p, hw, hp⟩ := inWatched_iff.mp hw
    obtain ⟨hrec, -, htimer⟩ := (h.phaseOk hp).of_watched hw
    exact ⟨⟨hbit, Nat.two_pow_pos _, hidle, hper, hhost⟩, hclk, .error, rfl, htimer, fun hr => by simp [hrec] at hr⟩
  | busIdle hp => exact ⟨hcount, hclk, .idle, rfl, (h.phaseOk hp).1⟩
  | idleDown hp _ hi =>
    obtain ⟨hrec, htimer, -⟩ := h.phaseOk hp
    exact ⟨⟨hbit, hbark, by simp only; omega, hper, hhost⟩, hclk, .awaitingIdle, hp, hrec, htimer, by simp only; omega⟩
  | idleTimeout hp =>
    obtain ⟨hrec, htimer, -⟩ := h.phaseOk hp
    exact ⟨⟨hbit, hbark, Nat.two_pow_pos _, hper, hhost⟩, hclk, .error, rfl, htimer, fun hr => by simp [hrec] at hr⟩
  | recoveryStart hp =>
    exact ⟨⟨hbit, hbark, hidle, (by decide : perRecovery ≠ 3), hhost⟩, fun _ => ⟨rfl, rfl⟩, .error, hp, rfl,
      fun _ => ⟨rfl, rfl⟩⟩
  | recoveryEnd hp => exact ⟨⟨(by decide : (0#4).toNat ≤ 8), hbark, hidle, hper, hhost⟩, nofun, .idle, rfl, rfl⟩

/-- The first half of the handshake, by SEND or by HSTART (42_host_api.md R166, R167). -/
theorem engineOk_startSend {s : State} (v : Byte) (h : EngineOk s) (hp : InPhase s .idle) :
    EngineOk { startSend v s with hostPhase := hostWaitDone } := by
  have hrec := h.phaseOk hp
  obtain ⟨⟨hbit, hbark, hidle, -⟩, -⟩ := h
  exact ⟨⟨hbit, hbark, hidle, (by decide : perHandshake ≠ 3), (by decide : hostWaitDone ≠ 3)⟩, fun _ => ⟨rfl, rfl⟩,
    .requestingSend, rfl, hrec, rfl, rfl, rfl⟩

/-- Outside RequestingSend the invariant asks of HOST_PHASE only to be a code (10_state.md R36, R42 item 4). -/
theorem EngineOk.set_host {s : State} {v : BitVec 2} (h : EngineOk s) (hv : v ≠ 3)
    (hp : ¬ InPhase s .requestingSend) (b : Byte) : EngineOk { s with hostByte := b, hostPhase := v } := by
  obtain ⟨⟨hbit, hbark, hidle, hper, -⟩, hclk, p, hps, hphase⟩ := h
  refine ⟨⟨hbit, hbark, hidle, hper, hv⟩, hclk, p, hps, ?_⟩
  cases p with
  | requestingSend => exact absurd hps hp
  | _ => exact hphase

/-- RXOFF is sound in every protocol state: RequestingSend and the recovery hold ask for what it leaves. -/
theorem engineOk_disableReception {s : State} (h : EngineOk s) : EngineOk (disableReception s) := by
  obtain ⟨hcount, -, p, hps, hphase⟩ := h
  refine ⟨hcount, fun _ => ⟨rfl, rfl⟩, p, hps, ?_⟩
  cases p with
  | requestingSend =>
    obtain ⟨hrec, htimer, -, hhost⟩ := hphase
    exact ⟨hrec, htimer, rfl, hhost⟩
  | error =>
    obtain ⟨htimer, -⟩ := hphase
    exact ⟨htimer, fun _ => ⟨rfl, rfl⟩⟩
  | _ => exact hphase

theorem not_requestingSend_of_ready {s : State} (h : EngineOk s) (hr : HostReady s) : ¬ InPhase s .requestingSend := by
  intro hp
  obtain ⟨-, -, -, hhost⟩ := h.phaseOk hp
  exact absurd (hr.symm.trans hhost) (by decide)

theorem ExecOutcome.engineOk {i : Instr} {s t : State} (ho : ExecOutcome s i t) (hc : LegalParams s)
    (h : EngineOk s) : EngineOk t := by
  cases ho with
  | init | rxon =>
    obtain ⟨hcount, -⟩ := h
    exact ⟨hcount, nofun, .idle, rfl, rfl⟩
  | rxoff => exact engineOk_disableReception h
  | sendStart _ _ hp => exact engineOk_startSend _ h hp
  | sendWait hr =>
    exact h.set_host (by decide : hostWaitStart ≠ 3) (not_requestingSend_of_ready h hr) _
  | edge he _ hu => exact hu.engineOk hc h he
  | tick _ _ hu => exact hu.engineOk hc h
  | _ => exact h

theorem exec_keeps_coherence {i : Instr} {s t : State} (h : Coherent s) (ht : exec i s = .next t) : Coherent t := by
  obtain ⟨hc, he, hb⟩ := coherent_iff.mp h
  obtain ⟨-, ho⟩ := exec_outcome ht
  exact coherent_iff.mpr ⟨by rwa [LegalParams, ho.params], ho.engineOk hc he, ho.bufferSound hc hb⟩

/-- All the host's internal step can do (42_host_api.md R167). -/
theorem hostInternal_cases (s : State) :
    (s.hostPhase = hostWaitStart ∧ InPhase s .idle ∧
      hostInternal s = { startSend s.hostByte s with hostPhase := hostWaitDone }) ∨
    (s.hostPhase = hostWaitDone ∧ InPhase s .idle ∧ hostInternal s = { s with hostPhase := hostReady }) ∨
    (¬ (hstartEnabled s = true ∨ hretEnabled s = true) ∧ hostInternal s = s) := by
  unfold hostInternal
  split
  · rename_i h
    obtain ⟨hphase, hp⟩ : s.hostPhase = hostWaitStart ∧ InPhase s .idle := by simpa [hstartEnabled] using h
    exact .inl ⟨hphase, hp, rfl⟩
  · split
    · rename_i h
      obtain ⟨hphase, hp⟩ : s.hostPhase = hostWaitDone ∧ InPhase s .idle := by simpa [hretEnabled] using h
      exact .inr (.inl ⟨hphase, hp, rfl⟩)
    · rename_i h1 h2
      exact .inr (.inr ⟨by simp [h1, h2], rfl⟩)

theorem hostInternal_keeps_coherence {s : State} (h : Coherent s) : Coherent (hostInternal s) := by
  obtain ⟨hc, he, hb⟩ := coherent_iff.mp h
  obtain ⟨-, hp, heq⟩ | ⟨-, hp, heq⟩ | ⟨-, heq⟩ := hostInternal_cases s
  · rw [heq]
    exact coherent_iff.mpr ⟨hc, engineOk_startSend _ he hp, hb⟩
  · have hne : ¬ InPhase s .requestingSend := fun hp' => by cases hp.symm.trans hp'
    rw [heq]
    exact coherent_iff.mpr ⟨hc, he.set_host (by decide : hostReady ≠ 3) hne _, hb⟩
  · rwa [heq]

/-- Settles O45: whichever turn is taken, a stimulus or the host's step, keeps the invariant. -/
theorem stepKeepsCoherence : Obligations.StepKeepsCoherence := by
  intro s t h ht
  obtain ⟨-, ⟨-, rfl⟩ | ⟨rest, -, rfl⟩ | ⟨w, rest, e, -, -, rfl⟩ | ⟨w, rest, i, -, -, hexec⟩⟩ := step_next ht
  · exact h
  · have h' : Coherent (takeHostStep s rest) := h
    exact hostInternal_keeps_coherence h'
  · exact h
  · have h' : Coherent (takeStimulus s rest) := h
    exact exec_keeps_coherence h' hexec

/-! ## The invariant over runs -/

theorem powerOn_coherent {p : Params} (hc : p.wellFormed = true) (turns : List Turn) :
    Coherent { State.powerOn p with agenda := turns } := by
  have hcap := two_le_cap hc
  refine coherent_iff.mpr ⟨hc, ⟨⟨?_, Nat.two_pow_pos _, Nat.two_pow_pos _, ?_, ?_⟩, nofun, .idle, rfl, rfl⟩, ?_⟩
  · exact (by decide : (0#4).toNat ≤ 8)
  · exact (by decide : (0#2) ≠ 3)
  · exact (by decide : (0#2) ≠ 3)
  · exact bufferSound_of_reset (by simp only [State.powerOn]; omega) .nil nofun rfl rfl

theorem Reachable.coherent {p : Params} {s : State} (h : Reachable p s) (hc : p.wellFormed = true) : Coherent s := by
  induction h with
  | powerOn turns => exact powerOn_coherent hc turns
  | step _ ht ih => exact stepKeepsCoherence _ _ ih ht

/-- Settles O48: the items are clauses of the invariant, which holds in every reachable state. -/
theorem reachableStatesKeepControl : Obligations.ReachableStatesKeepControl := by
  intro p s hc h _
  obtain ⟨-, ⟨hstate, hbit, -⟩, -, hcontrol, -⟩ := h.coherent hc
  exact ⟨hstate, hbit, hcontrol⟩

/-- Settles O49: reception on, a start bit of 1, the tick that starts recovery, and reception off in the hold. -/
theorem recoveryHoldMayReleaseData : Obligations.RecoveryHoldMayReleaseData := by
  have h := Reachable.powerOn (p := Params.vectors)
    [.stimulus (encode .rxon), .stimulus (encode (.edge true)), .stimulus (encode (.tick true true)),
      .stimulus (encode .rxoff)]
  exact ⟨_, .step (.step (.step (.step h rfl) rfl) rfl) rfl, rfl, rfl, rfl, rfl⟩

/-! ## Every turn from a live state with sound indices is answered -/

theorem hostCommand_answers {s : State} {body : Out} (hl : Live s) (hb : ∃ t, body = .next t) :
    ∃ t, hostCommand s body = .next t := by
  by_cases hr : HostReady s
  · by_cases hs : Sound s
    · rwa [hostCommand_of_ready hl hr hs]
    · exact ⟨_, hostCommand_of_unsound hl hr hs body⟩
  · exact ⟨_, hostCommand_of_blocked hl hr body⟩

/-- Only the push of a stop bit could stop, and slot HEAD exists. -/
theorem edgeArm_answers {s : State} (d : Bool) (p : ProtocolState) (hh : s.head < s.params.cap) :
    ∃ u, edgeArm d s p = .next u := by
  cases p with
  | idle =>
    show ∃ u, edgeIdle d s = .next u
    unfold edgeIdle
    split <;> exact ⟨_, rfl⟩
  | receivingParity =>
    show ∃ u, edgeReceivingParity d s = .next u
    unfold edgeReceivingParity
    dsimp only
    split <;> exact ⟨_, rfl⟩
  | receivingStop =>
    show ∃ u, edgeReceivingStop d s = .next u
    unfold edgeReceivingStop
    split
    · exact ⟨_, pushByte_of_slot hh⟩
    · exact ⟨_, rfl⟩
  | awaitingAck =>
    show ∃ u, edgeAwaitingAck d s = .next u
    unfold edgeAwaitingAck
    split <;> exact ⟨_, rfl⟩
  | _ => exact ⟨_, rfl⟩

theorem exec_answers {s : State} (i : Instr) (hl : Live s) (hh : s.head < s.params.cap) (ht : s.tail < s.params.cap) :
    ∃ t, exec i s = .next t := by
  cases i with
  | init | rxoff | rxon | busy | avail | send => exact hostCommand_answers hl ⟨_, rfl⟩
  | getb =>
    refine hostCommand_answers hl ?_
    split
    · exact ⟨_, popByte_of_slot ht⟩
    · exact ⟨_, rfl⟩
  | edge d =>
    cases he : s.edgeEn with
    | false => exact ⟨_, execEdge_lost hl he⟩
    | true =>
      obtain ⟨p, hp, hs, -⟩ | ⟨hs, -⟩ := whenSound_cases s fun _ => .next s
      · obtain ⟨u, hu⟩ := edgeArm_answers d p hh
        exact ⟨requestRecovery u, (execEdge_taken hl he hp hs).trans (by rw [hu]; rfl)⟩
      · exact ⟨_, execEdge_of_unsound hl he hs⟩
  | tick c d =>
    cases he : s.timerEn with
    | false => exact ⟨_, execTick_disarmed hl he⟩
    | true =>
      obtain ⟨p, hp, hs, -⟩ | ⟨hs, -⟩ := whenSound_cases s fun _ => .next s
      · exact ⟨_, execTick_taken hl he hp hs⟩
      · exact ⟨_, execTick_of_unsound hl he hs⟩

theorem step_answers {s : State} (hl : Live s) (hh : s.head < s.params.cap) (ht : s.tail < s.params.cap) :
    ∃ t, step s = .next t := by
  match ha : s.agenda with
  | [] => exact ⟨_, step_of_no_turn hl ha⟩
  | .hostStep :: rest => exact ⟨_, step_of_hostStep hl ha⟩
  | .stimulus w :: rest =>
    cases hd : decode w with
    | ok i =>
      rw [step_of_decoded hl ha hd]
      exact exec_answers i hl hh ht
    | error e => exact ⟨_, step_of_reserved hl ha hd⟩

theorem fault_ne_some_of_live {s : State} (hl : Live s) (k : FaultKind) : s.fault ≠ some k := by
  have hf : s.fault = none := hl
  simp [hf]

theorem ExecOutcome.fault_ne_badState {i : Instr} {s t : State} (ho : ExecOutcome s i t) (hl : Live s)
    (hs : Sound s) : t.fault ≠ some .badState := by
  have hf := fault_ne_some_of_live hl .badState
  cases ho with
  | blocked | tickDisarmed | getbEmpty => exact nofun
  | badState _ hn => exact absurd hs hn
  | edge _ _ hu => simpa [hu.frame.fault] using hf
  | tick _ _ hu => rwa [hu.frame.fault]
  | _ => exact hf

theorem hostInternal_fault (s : State) : (hostInternal s).fault = s.fault := by
  obtain ⟨-, -, h⟩ | ⟨-, -, h⟩ | ⟨-, h⟩ := hostInternal_cases s <;> simp [h]

theorem step_fault_ne_badState {s t : State} (hs : Sound s) (ht : step s = .next t) :
    t.fault ≠ some .badState := by
  obtain ⟨hl, ⟨-, rfl⟩ | ⟨rest, -, rfl⟩ | ⟨w, rest, e, -, -, rfl⟩ | ⟨w, rest, i, -, -, hexec⟩⟩ := step_next ht
  · exact fault_ne_some_of_live hl _
  · rw [hostInternal_fault]
    exact fault_ne_some_of_live hl _
  · cases e <;> exact nofun
  · obtain ⟨hl', ho⟩ := exec_outcome hexec
    exact ho.fault_ne_badState hl' hs

/-- Settles O47: the indices name slots, so every turn is answered, and the state is sound, so F_BAD_STATE is not. -/
theorem coherentStateAlwaysSteps : Obligations.CoherentStateAlwaysSteps := by
  intro s h hl
  have ⟨_, _, _, _, _, _, ⟨hh, ht, _⟩, _⟩ := h
  obtain ⟨t, hstep⟩ := step_answers hl hh ht
  exact ⟨t, hstep, step_fault_ne_badState (sound_of_coherent h) hstep⟩

/-! ## Codes, faults and lost edges -/

/-- Settles O4. -/
theorem stateEncoding : Obligations.StateEncoding :=
  ⟨rfl, ofCode_code, fun _ h => ofCode_eq_none.mpr h⟩

theorem exec_of_fault {s : State} {k : FaultKind} (hf : s.fault = some k) (i : Instr) : exec i s = k.stop := by
  cases i <;> exact whenLive_of_fault hf _

/-- Settles O8: every meaning and the step begin with check (1) of 60_exceptions.md R208. -/
theorem faultedStateHasNoStep : Obligations.FaultedStateHasNoStep := by
  intro s
  have stops : ∀ k, s.fault = some k → step s = k.stop ∧ ∀ i, exec i s = k.stop :=
    fun _ hf => ⟨step_of_fault hf, exec_of_fault hf⟩
  exact ⟨stops _, stops _, stops _, stops _, stops _, stops _⟩

/-- Settles O15. -/
theorem edgeWithReceptionOffIsLost : Obligations.EdgeWithReceptionOffIsLost :=
  fun _ _ hl he => execEdge_lost hl he

theorem pushByte_of_no_slot {b : Byte} {s : State} (h : s.params.cap ≤ s.head) :
    pushByte b s = .fault .slotOutOfRange := if_neg (Nat.not_lt.mpr h)

theorem popByte_of_no_slot {s : State} (h : s.params.cap ≤ s.tail) : popByte s = .fault .slotOutOfRange :=
  if_neg (Nat.not_lt.mpr h)

/-- A STATE or BITCNT no run reaches is what `Sound` excludes. -/
theorem not_sound_of_unreachable {s : State} (h : 11 ≤ s.state.toNat ∨
    ((InPhase s .receivingData ∨ InPhase s .transmittingData) ∧ (s.bitcnt = 0 ∨ 8 < s.bitcnt.toNat))) : ¬ Sound s := by
  rintro ⟨hstate, hbits⟩
  obtain h | ⟨hdata, h | h⟩ := h
  · omega
  · have := hbits hdata
    simp [h] at this
  · have := hbits hdata
    omega

/-- Settles O16: the check for F_BAD_STATE, and the two index checks of push and pop. -/
theorem unreachableCodesFault : Obligations.UnreachableCodesFault := by
  refine ⟨fun s i hl ha h => exec_of_unsound hl ha (not_sound_of_unreachable h), ?_, ?_⟩
  · rintro s ⟨hl, he, hp⟩ hc
    calc exec (.edge true) s
      _ = afterEdge (edgeArm true s .receivingStop) := execEdge_taken hl he hp (sound_of_phase hp rfl)
      _ = afterEdge (.fault .slotOutOfRange) := congrArg afterEdge (pushByte_of_no_slot hc)
      _ = .fault .slotOutOfRange := rfl
  · rintro s ⟨hl, hr, hs⟩ hne hc
    have hav : availableFlag s = true := by simpa [availableFlag] using hne
    calc exec .getb s
      _ = if availableFlag s then popByte s else .next (record .emptyPop s) := hostCommand_of_ready hl hr hs _
      _ = popByte s := if_pos hav
      _ = .fault .slotOutOfRange := popByte_of_no_slot hc

/-! ## A blocked send (10_state.md R42 item 7, 42_host_api.md R170) -/

/-- While the host is blocked no stimulus writes its registers: its own commands are refused. -/
theorem exec_of_blocked_host {i : Instr} {s t : State} (ht : exec i s = .next t) (hr : ¬ HostReady s) :
    t.hostPhase = s.hostPhase ∧ t.hostByte = s.hostByte ∧ t.pending = s.pending := by
  obtain ⟨-, ho⟩ := exec_outcome ht
  cases ho with
  | blocked | tickDisarmed | edgeLost | badState => exact ⟨rfl, rfl, rfl⟩
  | edge _ _ hu => simpa using ⟨hu.frame.hostPhase, hu.frame.hostByte, hu.frame.pending⟩
  | tick _ _ hu => exact ⟨hu.frame.hostPhase, hu.frame.hostByte, hu.frame.pending⟩
  | _ => contradiction

/-- A step from a state whose host is blocked is the host's own internal step, or leaves the host's registers. -/
theorem step_of_blocked_host {s t : State} (ht : step s = .next t) (hr : ¬ HostReady s) :
    (∃ rest, s.agenda = .hostStep :: rest ∧ t = hostInternal (takeHostStep s rest)) ∨
      (t.hostPhase = s.hostPhase ∧ t.hostByte = s.hostByte ∧ t.pending = s.pending) := by
  obtain ⟨-, ⟨-, rfl⟩ | hhost | ⟨w, rest, e, -, -, rfl⟩ | ⟨w, rest, i, -, -, hexec⟩⟩ := step_next ht
  · exact .inr ⟨rfl, rfl, rfl⟩
  · exact .inl hhost
  · exact .inr ⟨rfl, rfl, rfl⟩
  · exact .inr (exec_of_blocked_host (s := takeStimulus s rest) hexec hr)

/-- Settles O38: of a blocked host's registers only its own internal step writes any, HRET or HSTART in Idle. -/
theorem blockedSendKeepsItsByte : Obligations.BlockedSendKeepsItsByte := by
  intro s t ht
  refine ⟨fun h2 => ?_, fun h1 => ?_⟩
  · have hr : ¬ HostReady s := by
      rw [HostReady, h2]
      decide
    obtain ⟨rest, ha, rfl⟩ | ⟨hphase, -, hpending⟩ := step_of_blocked_host ht hr
    · obtain ⟨hw, -, -⟩ | ⟨-, hp, h⟩ | ⟨-, h⟩ := hostInternal_cases (takeHostStep s rest)
      · exact absurd (h2.symm.trans hw) (by decide)
      · rw [h]
        exact ⟨rfl, .inr ⟨rfl, hp, rest, ha⟩⟩
      · rw [h]
        exact ⟨rfl, .inl h2⟩
    · exact ⟨hpending, .inl (hphase.trans h2)⟩
  · have hr : ¬ HostReady s := by
      rw [HostReady, h1]
      decide
    obtain ⟨rest, -, rfl⟩ | ⟨hphase, hbyte, hpending⟩ := step_of_blocked_host ht hr
    · obtain ⟨-, hp, h⟩ | ⟨hw, -, -⟩ | ⟨-, h⟩ := hostInternal_cases (takeHostStep s rest)
      · rw [h]
        exact .inr ⟨rfl, rfl, hp, rfl⟩
      · exact absurd (h1.symm.trans hw) (by decide)
      · rw [h]
        exact .inl ⟨h1, rfl, rfl⟩
    · exact .inl ⟨hphase.trans h1, hbyte, hpending⟩

end Sys2Proof.Machine

/-! Scope: the receive buffer: what a recorded fault leaves unchanged (O9), a push's count (O50), the byte AVAIL
promises (O51), and whole frames drained in order or overflowing (O52, O53). -/

namespace Sys2Proof.Machine

open Sys2Proof.Claims

/-! ## A recorded fault (30_encoding.md R80, 60_exceptions.md R210) -/

/-- The outcomes with FAULT set are those that record a kind; every other one keeps the live state's FAULT = none. -/
theorem ExecOutcome.eq_record {i : Instr} {s t : State} {k : FaultKind} (ho : ExecOutcome s i t) (hl : Live s)
    (hk : t.fault = some k) : t = record k s := by
  have hf := fault_ne_some_of_live hl k
  cases ho with
  | blocked | tickDisarmed | badState | getbEmpty =>
    obtain rfl := Option.some.inj hk
    rfl
  | edge _ _ hu => exact absurd (by simpa [hu.frame.fault] using hk) hf
  | tick _ _ hu => exact absurd (hu.frame.fault ▸ hk) hf
  | _ => exact absurd hk hf

/-- Settles O9: FAULT is set only by `record`, which writes nothing else. -/
theorem recordingAFaultChangesNothingElse : Obligations.RecordingAFaultChangesNothingElse := by
  intro i s t k ht hk
  obtain ⟨hl, ho⟩ := exec_outcome ht
  exact ho.eq_record hl hk

/-! ## Push, pop and the unread bytes (20_memory.md R51 to R57)

`unread` reads the buffer as the list of its unread bytes, oldest first. A push below CAP - 1 unread bytes appends to
it, a push at CAP - 1 empties it, and a pop takes its first byte. -/

/-- HEAD and TAIL name slots (20_memory.md R50). -/
abbrev IndicesOk (s : State) : Prop := s.head < s.params.cap ∧ s.tail < s.params.cap

/-- What a push into slot HEAD leaves (20_memory.md R51). -/
def pushed (b : Byte) (s : State) : State :=
  { s with rxbuf := Memory.write s.rxbuf s.head b, head := nextSlot s.params s.head }

/-- What a pop of slot TAIL leaves (20_memory.md R53). -/
def popped (s : State) : State :=
  { s with result := .byte (slotByte s.rxbuf s.tail), tail := nextSlot s.params s.tail }

theorem pushByte_eq_pushed {b : Byte} {s : State} (h : s.head < s.params.cap) : pushByte b s = .next (pushed b s) :=
  pushByte_of_slot h

theorem popByte_eq_popped {s : State} (h : s.tail < s.params.cap) : popByte s = .next (popped s) :=
  popByte_of_slot h

theorem IndicesOk.pushed {s : State} (b : Byte) (h : IndicesOk s) : IndicesOk (pushed b s) :=
  ⟨nextSlot_lt (Nat.zero_lt_of_lt h.1) _, h.2⟩

theorem IndicesOk.popped {s : State} (h : IndicesOk s) : IndicesOk (popped s) :=
  ⟨h.1, nextSlot_lt (Nat.zero_lt_of_lt h.2) _⟩

/-- The slot `i` places after TAIL, modulo CAP. -/
def unreadSlot (s : State) (i : Nat) : Nat := (s.tail + i) % s.params.cap

/-- The unread bytes, oldest first (20_memory.md R55). -/
def unread (s : State) : List Byte := (List.range (unreadCount s)).map fun i => slotByte s.rxbuf (unreadSlot s i)

@[simp] theorem length_unread (s : State) : (unread s).length = unreadCount s := by simp [unread]

theorem unreadCount_lt {s : State} (h : IndicesOk s) : unreadCount s < s.params.cap :=
  Nat.mod_lt _ (Nat.zero_lt_of_lt h.1)

theorem unreadCount_eq_zero_iff {s : State} (h : IndicesOk s) : unreadCount s = 0 ↔ s.head = s.tail := by
  obtain ⟨hh, ht⟩ := h
  rw [unreadCount_eq_ite hh ht]
  split <;> omega

theorem unread_eq_nil_iff {s : State} (h : IndicesOk s) : unread s = [] ↔ s.head = s.tail := by
  rw [← List.length_eq_zero_iff, length_unread, unreadCount_eq_zero_iff h]

theorem unreadCount_pushed {s : State} (b : Byte) (h : IndicesOk s) :
    unreadCount (pushed b s) = (unreadCount s + 1) % s.params.cap := by
  have hlt := unreadCount_lt h
  have ⟨hh', ht'⟩ := h.pushed b
  obtain ⟨hh, ht⟩ := h
  rw [mod_eq_ite_of_lt_two_mul (by omega), unreadCount_eq_ite hh' ht', unreadCount_eq_ite hh ht]
  simp only [pushed, nextSlot_eq_ite hh]
  split_ifs <;> omega

/-- HEAD is the slot after the unread ones. -/
theorem unreadSlot_unreadCount {s : State} (h : IndicesOk s) : unreadSlot s (unreadCount s) = s.head := by
  have hlt := unreadCount_lt h
  obtain ⟨hh, ht⟩ := h
  rw [unreadSlot, mod_eq_ite_of_lt_two_mul (by omega), unreadCount_eq_ite hh ht]
  split_ifs <;> omega

/-- HEAD is none of the unread slots. -/
theorem unreadSlot_ne_head {s : State} {i : Nat} (h : IndicesOk s) (hi : i < unreadCount s) :
    unreadSlot s i ≠ s.head := by
  obtain ⟨hh, ht⟩ := h
  have hlt := unreadCount_lt ⟨hh, ht⟩
  rw [unreadSlot, mod_eq_ite_of_lt_two_mul (by omega)]
  rw [unreadCount_eq_ite hh ht] at hi
  split_ifs at hi ⊢ <;> omega

theorem slotByte_write_same (m : Memory) (slot : Nat) (b : Byte) : slotByte (Memory.write m slot b) slot = b :=
  slotByte_of_read (Memory.read_write_same m slot b)

theorem slotByte_write_other {m : Memory} {slot other : Nat} {b : Byte} (h : other ≠ slot) :
    slotByte (Memory.write m slot b) other = slotByte m other := by
  rw [slotByte, Memory.read_write_other m slot other b h, slotByte]

theorem unread_pushed {s : State} (b : Byte) (h : IndicesOk s) (hroom : unreadCount s + 1 < s.params.cap) :
    unread (pushed b s) = unread s ++ [b] := by
  have hcount : unreadCount (pushed b s) = unreadCount s + 1 := by
    rw [unreadCount_pushed b h, Nat.mod_eq_of_lt hroom]
  have hnew : slotByte (pushed b s).rxbuf (unreadSlot s (unreadCount s)) = b := by
    rw [unreadSlot_unreadCount h]
    exact slotByte_write_same _ _ _
  have hold : ∀ i < unreadCount s, slotByte (pushed b s).rxbuf (unreadSlot s i) = slotByte s.rxbuf (unreadSlot s i) :=
    fun i hi => slotByte_write_other (unreadSlot_ne_head h hi)
  have hslot : ∀ i, unreadSlot (pushed b s) i = unreadSlot s i := fun _ => rfl
  simp only [unread, hcount, hslot, List.range_succ, List.map_append, List.map_singleton, hnew]
  congr 1
  exact List.map_congr_left fun i hi => hold i (List.mem_range.mp hi)

/-- A push into a buffer of CAP - 1 unread bytes makes HEAD = TAIL, which reads as empty. -/
theorem unread_pushed_full {s : State} (b : Byte) (h : IndicesOk s) (hfull : unreadCount s + 1 = s.params.cap) :
    unread (pushed b s) = [] := by
  rw [← List.length_eq_zero_iff, length_unread, unreadCount_pushed b h, hfull, Nat.mod_self]

theorem unread_popped {s : State} (h : IndicesOk s) (hne : s.head ≠ s.tail) :
    unread s = slotByte s.rxbuf s.tail :: unread (popped s) := by
  have hcount : unreadCount s = unreadCount (popped s) + 1 := by
    have ⟨hh', ht'⟩ := h.popped
    obtain ⟨hh, ht⟩ := h
    rw [unreadCount_eq_ite hh' ht', unreadCount_eq_ite hh ht]
    simp only [popped, nextSlot_eq_ite ht]
    split_ifs <;> omega
  have hfirst : unreadSlot s 0 = s.tail := Nat.mod_eq_of_lt h.2
  have hslot : ∀ i, unreadSlot s (i + 1) = unreadSlot (popped s) i := by
    intro i
    show (s.tail + (i + 1)) % s.params.cap = ((s.tail + 1) % s.params.cap + i) % s.params.cap
    rw [Nat.mod_add_mod]
    congr 1
    omega
  rw [unread, hcount, List.range_succ_eq_map, List.map_cons, List.map_map, hfirst]
  exact congrArg _ (List.map_congr_left fun i _ => congrArg _ (hslot i))

/-- Settles O50: a push moves HEAD alone, and the count is a remainder modulo CAP. -/
theorem pushRaisesCountModuloCap : Obligations.PushRaisesCountModuloCap := by
  intro b s hh ht
  have h : IndicesOk s := ⟨hh, ht⟩
  have hlt := unreadCount_lt h
  exact ⟨pushed b s, pushByte_eq_pushed hh, rfl, unreadCount_pushed b h, by omega⟩

/-! ## AVAIL, GETB and DRAIN (20_memory.md R62, 30_encoding.md R82) -/

theorem exec_avail {s : State} (h : AcceptsCommand s) :
    exec .avail s = .next { s with result := .bit (availableFlag s) } := by
  obtain ⟨hl, hr, hs⟩ := h
  exact hostCommand_of_ready hl hr hs _

theorem availableFlag_iff {s : State} : availableFlag s = true ↔ s.head ≠ s.tail := by simp [availableFlag]

theorem exec_getb_of_unread {s : State} (h : AcceptsCommand s) (hne : s.head ≠ s.tail) (ht : s.tail < s.params.cap) :
    exec .getb s = .next (popped s) := by
  obtain ⟨hl, hr, hs⟩ := h
  calc exec .getb s
    _ = if availableFlag s then popByte s else .next (record .emptyPop s) := hostCommand_of_ready hl hr hs _
    _ = popByte s := if_pos (availableFlag_iff.mpr hne)
    _ = .next (popped s) := popByte_eq_popped ht

/-- Settles O51: AVAIL returns 1 only with HEAD ≠ TAIL, where slot TAIL is the first of the readable range. -/
theorem availableByteIsReturned : Obligations.AvailableByteIsReturned := by
  intro s t hc ha ht hbit
  obtain ⟨-, -, ⟨hh, htail, -⟩, hread⟩ := coherent_iff.mp hc
  have hi : IndicesOk s := ⟨hh, htail⟩
  obtain rfl : { s with result := .bit (availableFlag s) } = t := by simpa [exec_avail ha] using ht
  have hne : s.head ≠ s.tail := availableFlag_iff.mp (by simpa using hbit)
  have hpos : 0 < unreadCount s := Nat.pos_of_ne_zero (mt (unreadCount_eq_zero_iff hi).mp hne)
  obtain ⟨b, hb⟩ := Option.isSome_iff_exists.mp (hread 0 hpos)
  rw [Nat.add_zero, Nat.mod_eq_of_lt htail] at hb
  exact ⟨b, _, hb, exec_getb_of_unread ha hne htail, congrArg Result.byte (slotByte_of_read hb)⟩

theorem drain_of_empty {s : State} (h : AcceptsCommand s) (he : s.head = s.tail) (n : Nat) :
    drain (n + 1) s = ([], .next { s with result := .bit false }) := by
  have hav : availableFlag s = false := by simp [availableFlag, he]
  simp [drain, exec_avail h, hav]

theorem drain_of_unread {s : State} (h : AcceptsCommand s) (hne : s.head ≠ s.tail) (ht : s.tail < s.params.cap)
    (n : Nat) :
    drain (n + 1) s = (slotByte s.rxbuf s.tail :: (drain n (popped s)).1, (drain n (popped s)).2) := by
  have hav : availableFlag s = true := availableFlag_iff.mpr hne
  have hget : exec .getb { s with result := .bit true } = .next (popped s) :=
    exec_getb_of_unread (s := { s with result := .bit true }) h hne ht
  have hbyte : (popped s).result = .byte (slotByte s.rxbuf s.tail) := rfl
  simp [drain, exec_avail h, hav, hget, hbyte]

/-- DRAIN, with one query more than there are unread bytes, returns them oldest first and empties the buffer. -/
theorem drain_eq_unread (bs : List Byte) {s : State} (h : AcceptsCommand s) (hi : IndicesOk s) (hbs : unread s = bs) :
    ∃ u, drain (bs.length + 1) s = (bs, .next u) ∧ u.head = u.tail := by
  induction bs generalizing s with
  | nil =>
    have he := (unread_eq_nil_iff hi).mp hbs
    exact ⟨_, drain_of_empty h he 0, he⟩
  | cons b bs ih =>
    have hne : s.head ≠ s.tail := fun he => by simp [(unread_eq_nil_iff hi).mpr he] at hbs
    obtain ⟨hb, hrest⟩ := List.cons.inj ((unread_popped hi hne).symm.trans hbs)
    obtain ⟨u, hu, hempty⟩ := ih (s := popped s) h hi.popped hrest
    refine ⟨u, ?_, hempty⟩
    rw [List.length_cons, drain_of_unread h hne hi.2, hu, hb]

/-! ## A whole receive frame (40_edge_engine.md R101 to R104, R113) -/

theorem execAll_cons {i : Instr} {s t : State} (h : exec i s = .next t) (is : List Instr) :
    execAll (i :: is) s = execAll is t := by
  simp [execAll, h]

theorem execAll_append {is : List Instr} {s t : State} (h : execAll is s = .next t) (js : List Instr) :
    execAll (is ++ js) s = execAll js t := by
  induction is generalizing s with
  | nil =>
    cases h
    rfl
  | cons i is ih =>
    cases hi : exec i s with
    | next u =>
      rw [execAll_cons hi] at h
      rw [List.cons_append, execAll_cons hi, ih h]
    | fault | refused => simp [execAll, hi] at h

theorem sound_of_acceptsEdge {s : State} {p : ProtocolState} (ha : AcceptsEdge s p) (hd : p.dataState = false) :
    Sound s := by
  obtain ⟨-, -, hp⟩ := ha
  exact sound_of_phase hp hd

/-- An accepted edge whose arm does not end in Error ends as its arm does. -/
theorem exec_edge_of_arm {d : Bool} {s u : State} {p q : ProtocolState} (ha : AcceptsEdge s p) (hs : Sound s)
    (hu : edgeArm d s p = .next u) (hq : InPhase u q) (hne : q ≠ .error) : exec (.edge d) s = .next u := by
  obtain ⟨hl, he, hp⟩ := ha
  have hnot : ¬ InPhase u .error := fun h => hne (code_injective (hq.symm.trans h))
  calc exec (.edge d) s
    _ = afterEdge (edgeArm d s p) := execEdge_taken hl he hp hs
    _ = .next (requestRecovery u) := congrArg afterEdge hu
    _ = .next u := by rw [requestRecovery_of_not_error hnot]

/-- SHIFT after the samples `ds` have entered one by one (10_state.md R23). -/
def shiftedIn (ds : List Bool) (v : Byte) : Byte := ds.foldl (fun v d => shiftIn d v) v

/-- The accumulator after the samples `ds` (10_state.md R25). -/
def parityOf (ds : List Bool) (acc : Bool) : Bool := ds.foldl parityStep acc

theorem getLsbD_shiftIn (d : Bool) (v : Byte) (i : Nat) :
    (shiftIn d v).getLsbD i = if i < 7 then v.getLsbD (i + 1) else decide (i = 7) && d := by
  rw [shiftIn, BitVec.getLsbD_append]
  split
  · simp [*, Nat.add_comm]
  · have h7 : decide (i - 7 = 0) = decide (i = 7) := decide_eq_decide.mpr (by omega)
    rw [BitVec.getLsbD_ofBool, h7]

/-- Eight samples in wire order push out whatever SHIFT held. -/
theorem shiftedIn_wireBits (b v : Byte) : shiftedIn (wireBits b) v = b := by
  refine BitVec.eq_of_getLsbD_eq fun i hi => ?_
  have hbits : wireBits b = [b.getLsbD 0, b.getLsbD 1, b.getLsbD 2, b.getLsbD 3, b.getLsbD 4, b.getLsbD 5,
    b.getLsbD 6, b.getLsbD 7] := rfl
  simp only [shiftedIn, hbits, List.foldl_cons, List.foldl_nil, getLsbD_shiftIn]
  interval_cases i <;> rfl

/-- The parity bit of a well-formed frame makes the accumulator 1. -/
theorem parityStep_oddParity (b : Byte) : parityStep (parityOf (wireBits b) false) (oddParity b) = true := by
  simp [parityStep, oddParity, parityBit, parityOf]

/-- The state the data bits `ds`, the last of the frame among them, leave (40_edge_engine.md R102). -/
def dataReceived (ds : List Bool) (s : State) : State :=
  { s with
    state := ProtocolState.receivingParity.code
    shift := shiftedIn ds s.shift
    bitcnt := 0
    parity := parityOf ds s.parity
    bark := s.params.barkBit }

/-- After a data bit that is not the last the block is still in ReceivingData (40_edge_engine.md R102). -/
theorem exec_dataBit {d : Bool} {s : State} (ha : AcceptsEdge s .receivingData)
    (hb : 2 ≤ s.bitcnt.toNat ∧ s.bitcnt.toNat ≤ 8) :
    exec (.edge d) s = .next { s with
      shift := shiftIn d s.shift, parity := parityStep s.parity d, bitcnt := s.bitcnt - 1,
      bark := s.params.barkBit } := by
  obtain ⟨hl, he, hp⟩ := ha
  have hp : s.state = ProtocolState.receivingData.code := hp
  have hs : Sound s := ⟨by rw [hp]; decide, fun _ => ⟨by omega, hb.2⟩⟩
  have h1 : ¬ s.bitcnt - 1 = 0 := fun h => by simp [sub_one_eq_zero_iff.mp h] at hb
  refine exec_edge_of_arm (q := .receivingData) ⟨hl, he, hp⟩ hs ?_ hp nofun
  simp only [edgeArm, edgeReceivingData, if_neg h1]

/-- The last data bit (40_edge_engine.md R102). -/
theorem exec_lastDataBit {d : Bool} {s : State} (ha : AcceptsEdge s .receivingData) (hb : s.bitcnt = 1) :
    exec (.edge d) s = .next (dataReceived [d] s) := by
  obtain ⟨hl, he, hp⟩ := ha
  have hp : s.state = ProtocolState.receivingData.code := hp
  have hs : Sound s := ⟨by rw [hp]; decide, fun _ => by simp [hb]⟩
  refine exec_edge_of_arm (q := .receivingParity) ⟨hl, he, hp⟩ hs ?_ rfl nofun
  simp [edgeArm, edgeReceivingData, hb, dataReceived, shiftedIn, parityOf]

theorem execAll_dataBits {ds : List Bool} {s : State} (ha : AcceptsEdge s .receivingData)
    (hn : s.bitcnt.toNat = ds.length) (hpos : 1 ≤ ds.length) (hle : ds.length ≤ 8) :
    execAll (edges ds) s = .next (dataReceived ds s) := by
  induction ds generalizing s with
  | nil => simp at hpos
  | cons d ds ih =>
    cases ds with
    | nil => exact execAll_cons (exec_lastDataBit ha (BitVec.eq_of_toNat_eq hn)) []
    | cons d' ds =>
      simp only [List.length_cons] at hn hle
      have hcount := toNat_sub_one (n := s.bitcnt) (by omega)
      refine (execAll_cons (exec_dataBit ha ⟨by omega, by omega⟩) (edges (d' :: ds))).trans ?_
      have hlen : (d' :: ds).length = ds.length + 1 := rfl
      exact ih ha (by simp only [hcount]; omega) (by omega) (by omega)

/-- The state a start bit leaves (40_edge_engine.md R101). -/
def frameStarted (s : State) : State :=
  { s with
    state := ProtocolState.receivingData.code
    shift := 0x00
    bitcnt := 8
    parity := false
    bark := s.params.barkBit
    timerEn := true
    timerPer := perWatchdog }

theorem exec_startBit {s : State} (ha : AcceptsEdge s .idle) : exec (.edge false) s = .next (frameStarted s) :=
  exec_edge_of_arm (q := .receivingData) ha (sound_of_acceptsEdge ha rfl) rfl rfl nofun

/-- The state the start bit and the eight data bits of `b` leave: the byte stands in SHIFT. -/
theorem execAll_startAndData {s : State} (b : Byte) (ha : AcceptsEdge s .idle) :
    execAll (.edge false :: edges (wireBits b)) s = .next (dataReceived (wireBits b) (frameStarted s)) := by
  obtain ⟨hl, he, hp⟩ := ha
  rw [execAll_cons (exec_startBit ⟨hl, he, hp⟩)]
  exact execAll_dataBits ⟨hl, he, rfl⟩ rfl (by decide : 1 ≤ 8) (Nat.le_refl 8)

/-- The state a parity bit that makes the accumulator 1 leaves (40_edge_engine.md R103). -/
def parityAccepted (s : State) : State :=
  { s with parity := true, state := ProtocolState.receivingStop.code, bark := s.params.barkBit }

theorem exec_goodParity {d : Bool} {s : State} (ha : AcceptsEdge s .receivingParity)
    (hd : parityStep s.parity d = true) :
    exec (.edge d) s = .next (parityAccepted s) :=
  exec_edge_of_arm (q := .receivingStop) ha (sound_of_acceptsEdge ha rfl)
    (by simp [edgeArm, edgeReceivingParity, hd, parityAccepted]) rfl nofun

theorem exec_goodStop {s : State} (ha : AcceptsEdge s .receivingStop) (hh : s.head < s.params.cap) :
    exec (.edge true) s = .next (pushed s.shift { s with state := ProtocolState.idle.code, timerEn := false }) :=
  exec_edge_of_arm (q := .idle) ha (sound_of_acceptsEdge ha rfl) (pushByte_eq_pushed hh) rfl nofun

/-- What a well-formed frame of `b` leaves: its byte pushed, the engine in Idle and the timer disarmed. -/
def received (b : Byte) (s : State) : State :=
  { pushed b s with
    state := ProtocolState.idle.code
    shift := b
    bitcnt := 0
    parity := true
    bark := s.params.barkBit
    timerEn := false
    timerPer := perWatchdog }

/-- A well-formed frame pushes its byte (40_edge_engine.md R113). -/
theorem execAll_rxFrame {s : State} (b : Byte) (ha : AcceptsEdge s .idle) (hh : s.head < s.params.cap) :
    execAll (rxFrame b) s = .next (received b s) := by
  obtain ⟨hl, he, hp⟩ := ha
  have hdata := execAll_startAndData b ⟨hl, he, hp⟩
  have hparity : exec (.edge (oddParity b)) (dataReceived (wireBits b) (frameStarted s)) = .next _ :=
    exec_goodParity ⟨hl, he, rfl⟩ (parityStep_oddParity b)
  have hstop : exec (.edge true) (parityAccepted (dataReceived (wireBits b) (frameStarted s))) = .next _ :=
    exec_goodStop ⟨hl, he, rfl⟩ hh
  calc execAll (rxFrame b) s
    _ = execAll [.edge (oddParity b), .edge true] (dataReceived (wireBits b) (frameStarted s)) :=
      execAll_append hdata [.edge (oddParity b), .edge true]
    _ = execAll [.edge true] (parityAccepted (dataReceived (wireBits b) (frameStarted s))) := execAll_cons hparity _
    _ = .next _ := execAll_cons hstop []
    _ = .next (received b s) := by
      simp [received, pushed, parityAccepted, dataReceived, frameStarted, shiftedIn_wireBits]

/-! ## Runs of frames (20_memory.md R57) -/

/-- The block waits in Idle for a frame, and the host may read the buffer. -/
structure Receptive (s : State) : Prop where
  accepts : AcceptsEdge s .idle
  ready : HostReady s
  indices : IndicesOk s

theorem Receptive.command {s : State} (h : Receptive s) : AcceptsCommand s := by
  obtain ⟨ha, hr, -⟩ := h
  exact ⟨ha.1, hr, sound_of_acceptsEdge ha rfl⟩

theorem Receptive.received {s : State} (h : Receptive s) (b : Byte) : Receptive (received b s) := by
  obtain ⟨⟨hl, he, -⟩, hr, hi⟩ := h
  exact ⟨⟨hl, he, rfl⟩, hr, hi.pushed b⟩

/-- The hypotheses of O52 and O53 on the state. -/
theorem receptive_of_coherent {s : State} (hc : Coherent s) (ha : AcceptsCommand s) (he : s.edgeEn = true)
    (hp : InPhase s .idle) : Receptive s := by
  obtain ⟨-, -, ⟨hh, ht, -⟩, -⟩ := coherent_iff.mp hc
  obtain ⟨hl, hr, -⟩ := ha
  exact ⟨⟨hl, he, hp⟩, hr, hh, ht⟩

/-- What the well-formed frames of `bs` leave, one after another. -/
def receivedAll (bs : List Byte) (s : State) : State := bs.foldl (fun s b => received b s) s

theorem receivedAll_append (bs cs : List Byte) (s : State) :
    receivedAll (bs ++ cs) s = receivedAll cs (receivedAll bs s) := List.foldl_append

theorem Receptive.receivedAll {s : State} (h : Receptive s) (bs : List Byte) : Receptive (receivedAll bs s) := by
  induction bs generalizing s with
  | nil => exact h
  | cons b bs ih => exact ih (h.received b)

theorem receivedAll_params (bs : List Byte) (s : State) : (receivedAll bs s).params = s.params := by
  induction bs generalizing s with
  | nil => rfl
  | cons b bs ih => exact ih (received b s)

theorem execAll_rxFrames {s : State} (bs : List Byte) (h : Receptive s) :
    execAll (bs.flatMap rxFrame) s = .next (receivedAll bs s) := by
  induction bs generalizing s with
  | nil => rfl
  | cons b bs ih =>
    rw [List.flatMap_cons, execAll_append (execAll_rxFrame b h.accepts h.indices.1)]
    exact ih (h.received b)

/-- While they fit into CAP - 1 slots, the bytes received stand behind the bytes unread before. -/
theorem unread_receivedAll {s : State} (bs : List Byte) (h : Receptive s)
    (hroom : unreadCount s + bs.length < s.params.cap) : unread (receivedAll bs s) = unread s ++ bs := by
  induction bs generalizing s with
  | nil => exact (List.append_nil _).symm
  | cons b bs ih =>
    rw [List.length_cons] at hroom
    have hb : unread (received b s) = unread s ++ [b] := unread_pushed b h.indices (by omega)
    have hcount : unreadCount (received b s) = unreadCount s + 1 := by simpa using congrArg List.length hb
    have hroom' : unreadCount (received b s) + bs.length < (received b s).params.cap := by
      show _ < s.params.cap
      omega
    calc unread (receivedAll (b :: bs) s)
      _ = unread (received b s) ++ bs := ih (h.received b) hroom'
      _ = unread s ++ b :: bs := by rw [hb, List.append_assoc, List.singleton_append]

/-- The frame that would leave CAP bytes unread empties the buffer. -/
theorem unread_receivedAll_overflow {s : State} (bs : List Byte) (b : Byte) (h : Receptive s)
    (hfull : unreadCount s + bs.length + 1 = s.params.cap) : unread (receivedAll (bs ++ [b]) s) = [] := by
  have hread := unread_receivedAll bs h (by omega)
  have hcount : unreadCount (receivedAll bs s) = unreadCount s + bs.length := by
    simpa using congrArg List.length hread
  rw [receivedAll_append]
  exact unread_pushed_full b (h.receivedAll bs).indices (by rw [hcount, receivedAll_params, hfull])

/-- Settles O52: the frames' bytes become the unread bytes, which DRAIN returns. -/
theorem framesAreDrainedInOrder : Obligations.FramesAreDrainedInOrder := by
  intro s bs hc ha he hp hempty hlen
  have h := receptive_of_coherent hc ha he hp
  have hcap := Nat.zero_lt_of_lt h.indices.1
  have hnone := (unread_eq_nil_iff h.indices).mpr hempty
  have hzero := (unreadCount_eq_zero_iff h.indices).mpr hempty
  have hread : unread (receivedAll bs s) = bs := by rw [unread_receivedAll bs h (by omega), hnone, List.nil_append]
  have ht := h.receivedAll bs
  obtain ⟨u, hdrain, hu⟩ := drain_eq_unread bs ht.command ht.indices hread
  exact ⟨_, u, execAll_rxFrames bs h, hdrain, hu⟩

/-- Settles O53: the CAP-th frame empties the buffer, and the frame after it stands there alone. -/
theorem overflowKeepsOnlyTheNewest : Obligations.OverflowKeepsOnlyTheNewest := by
  intro s bs b hc ha he hp hempty hlen
  have h := receptive_of_coherent hc ha he hp
  obtain ⟨hparams, -⟩ := coherent_iff.mp hc
  have hcap := two_le_cap hparams
  have hzero := (unreadCount_eq_zero_iff h.indices).mpr hempty
  have ht := h.receivedAll bs
  have hnone : unread (receivedAll bs s) = [] := by
    have hne : bs ≠ [] := List.ne_nil_of_length_pos (by omega)
    obtain ⟨init, last, rfl⟩ := (List.eq_nil_or_concat' bs).resolve_left hne
    rw [List.length_append, List.length_singleton] at hlen
    exact unread_receivedAll_overflow init last h (by omega)
  have hu := h.receivedAll (bs ++ [b])
  have hlast : unread (receivedAll (bs ++ [b]) s) = [b] := by
    have hzero' : unreadCount (receivedAll bs s) = 0 := by rw [← length_unread, hnone, List.length_nil]
    rw [receivedAll_append, unread_receivedAll [b] ht, hnone, List.nil_append]
    rw [hzero', receivedAll_params, List.length_singleton]
    omega
  obtain ⟨u, hdrain, hu'⟩ := drain_eq_unread [b] hu.command hu.indices hlast
  exact ⟨⟨_, execAll_rxFrames bs h, (unread_eq_nil_iff ht.indices).mp hnone⟩,
    _, u, execAll_rxFrames (bs ++ [b]) h, hdrain, hu'⟩

end Sys2Proof.Machine

/-! Scope: the encoding and admissibility (30_encoding.md): the decoder against the encoder and the opcode map (O1 to
O3), the assembler text (O5), refused words (O7), results (O10), the host's internal steps (O12) and the two refusals by
admissibility (O13, O14). -/

namespace Sys2Proof

/-! ## The fields of a word (30_encoding.md R70) -/

@[simp] theorem opField_append (op : BitVec 4) (arg : Byte) : opField (op ++ arg) = op :=
  BitVec.extractLsb'_append_eq_left

@[simp] theorem argField_append (op : BitVec 4) (arg : Byte) : argField (op ++ arg) = arg :=
  BitVec.extractLsb'_append_eq_right

theorem append_fields (w : Word) : opField w ++ argField w = w := BitVec.extractLsb'_append_extractLsb'

theorem append_eq_of_fields {w : Word} {op : BitVec 4} {arg : Byte} (hop : (opField w).toNat = op.toNat)
    (harg : arg = argField w) : op ++ arg = w := by
  rw [← BitVec.eq_of_toNat_eq hop, harg, append_fields]

/-- A mask that keeps OP compares the two fields separately. -/
theorem fields_of_masked {w : Word} {op : BitVec 4} {argMask arg : Byte} (h : w &&& (0xF#4 ++ argMask) = op ++ arg) :
    opField w = op ∧ argField w &&& argMask = arg := by
  have hop : opField w &&& 0xF#4 = opField w := BitVec.and_allOnes
  rw [← append_fields w, BitVec.and_append, hop] at h
  exact ⟨by simpa using congrArg opField h, by simpa using congrArg argField h⟩

/-! ## Operands (30_encoding.md R73): the reserved ARG bits are zero -/

theorem arg_of_one_bit {arg : Byte} (h : arg.extractLsb' 1 7 = 0) : 0#7 ++ BitVec.ofBool (arg.getLsbD 0) = arg := by
  revert arg
  decide

theorem arg_of_two_bits {arg : Byte} (h : arg.extractLsb' 2 6 = 0) :
    0#6 ++ (BitVec.ofBool (arg.getLsbD 1) ++ BitVec.ofBool (arg.getLsbD 0)) = arg := by
  revert arg
  decide

theorem arg_of_one_bit_mask {arg : Byte} (h : arg &&& 0xFE = 0) : 0#7 ++ BitVec.ofBool (arg.getLsbD 0) = arg := by
  revert arg
  decide

theorem arg_of_two_bit_mask {arg : Byte} (h : arg &&& 0xFC = 0) :
    0#6 ++ (BitVec.ofBool (arg.getLsbD 1) ++ BitVec.ofBool (arg.getLsbD 0)) = arg := by
  revert arg
  decide

/-! ## The decoder against the encoder -/

@[simp] theorem decode_encode (i : Instr) : decode (encode i) = .ok i := by
  cases i with
  | send b => simp [encode, decode]
  | edge d => cases d <;> rfl
  | tick c d => cases c <;> cases d <;> rfl
  | _ => rfl

/-- Each arm of R78 that answers an operation has fixed OP and every reserved ARG bit. -/
theorem encode_of_decode {w : Word} {i : Instr} (h : decode w = .ok i) : encode i = w := by
  unfold decode at h
  simp only at h
  split at h <;> rename_i hop
  case h_2 => -- RXOFF and RXON share the value of OP, and ARG bit 0 tells them apart
    split at h
    · have harg := arg_of_one_bit ‹_›
      split at h <;> rename_i hd <;> cases h
      · rw [hd] at harg
        exact append_eq_of_fields hop harg
      · rw [eq_false_of_ne_true hd] at harg
        exact append_eq_of_fields hop harg
    · cases h
  case h_4 => -- SEND: all of ARG is the operand
    cases h
    exact append_eq_of_fields hop rfl
  case h_7 => -- EDGE
    split at h <;> cases h
    exact append_eq_of_fields hop (arg_of_one_bit ‹_›)
  case h_8 => -- TICK
    split at h <;> cases h
    exact append_eq_of_fields hop (arg_of_two_bits ‹_›)
  case h_9 => cases h
  all_goals -- the operations without an operand
    split at h <;> cases h
    exact append_eq_of_fields hop (Eq.symm ‹_›)

/-- Settles O2. -/
theorem decodeEncodeAgree : Obligations.DecodeEncodeAgree :=
  ⟨decode_encode, fun _ _ => encode_of_decode⟩

theorem decode_eq_ok_iff {w : Word} {i : Instr} : decode w = .ok i ↔ w = encode i :=
  ⟨fun h => (encode_of_decode h).symm, fun h => h ▸ decode_encode i⟩

/-- Settles O1: each word is, bit by bit, the encoding of the operation named. -/
theorem writtenWordsDecode : Obligations.WrittenWordsDecode :=
  ⟨decode_encode .init, decode_encode .rxoff, decode_encode .rxon, decode_encode .busy, decode_encode (.send 0xA5),
    decode_encode .avail, decode_encode .getb, decode_encode (.edge true), decode_encode (.tick true false)⟩

/-! ## The decoder against the opcode map (30_encoding.md R72, R76, R77) -/

/-- OP is reserved (30_encoding.md R76). -/
abbrev ReservedOp (w : Word) : Prop := opField w = 0x0 ∨ opField w = 0x7 ∨ 0xA ≤ (opField w).toNat

theorem encode_covered_by_own_row (i : Instr) :
    ∃ r ∈ opcodeRows, r.covers (encode i) = true ∧ r.mnemonic = i.mnemonic := by
  have h : Laws.EncodingMatchesRow.Statement i := by
    cases i with
    | init => exact Laws.EncodingMatchesRow.init
    | rxoff => exact Laws.EncodingMatchesRow.rxoff
    | rxon => exact Laws.EncodingMatchesRow.rxon
    | busy => exact Laws.EncodingMatchesRow.busy
    | send b => exact Laws.EncodingMatchesRow.send b
    | avail => exact Laws.EncodingMatchesRow.avail
    | getb => exact Laws.EncodingMatchesRow.getb
    | edge d => exact Laws.EncodingMatchesRow.edge d
    | tick c d => exact Laws.EncodingMatchesRow.tick c d
  have hm : i.mnemonic ∈ (opcodeRows.filter (·.covers (encode i))).map (·.mnemonic) := by
    rw [h]
    exact List.mem_singleton_self _
  obtain ⟨r, hr, hmn⟩ := List.mem_map.mp hm
  obtain ⟨hmem, hcov⟩ := List.mem_filter.mp hr
  exact ⟨r, hmem, hcov, hmn⟩

theorem decode_of_full_mask {w : Word} {i : Instr} (h : w &&& 0xFFF#12 = encode i) : decode w = .ok i :=
  decode_eq_ok_iff.mpr (BitVec.and_allOnes.symm.trans h)

theorem decode_of_fields {w : Word} {op : BitVec 4} {arg : Byte} {i : Instr} (hop : opField w = op)
    (harg : arg = argField w) (hi : op ++ arg = encode i := by rfl) : decode w = .ok i := by
  rw [decode_eq_ok_iff, ← hi, append_eq_of_fields (congrArg BitVec.toNat hop) harg]

/-- A covering row fixes OP and the reserved ARG bits, so the decoder's arm for that OP answers an operation. -/
theorem decode_of_wordWellFormed {w : Word} (h : wordWellFormed w = true) : ∃ i, decode w = .ok i := by
  obtain ⟨r, hr, hcov⟩ := List.any_eq_true.mp h
  have hcov : w &&& r.mask = r.pattern := eq_of_beq hcov
  simp only [opcodeRows, List.mem_cons, List.not_mem_nil, or_false] at hr
  obtain rfl | rfl | rfl | rfl | rfl | rfl | rfl | rfl | rfl := hr
  · exact ⟨.init, decode_of_full_mask hcov⟩
  · exact ⟨.rxoff, decode_of_full_mask hcov⟩
  · exact ⟨.rxon, decode_of_full_mask hcov⟩
  · exact ⟨.busy, decode_of_full_mask hcov⟩
  · obtain ⟨hop, -⟩ := fields_of_masked (op := 0x4) (argMask := 0) (arg := 0) hcov
    exact ⟨.send _, decode_of_fields hop rfl⟩
  · exact ⟨.avail, decode_of_full_mask hcov⟩
  · exact ⟨.getb, decode_of_full_mask hcov⟩
  · obtain ⟨hop, harg⟩ := fields_of_masked (op := 0x8) (argMask := 0xFE) (arg := 0) hcov
    exact ⟨.edge _, decode_of_fields hop (arg_of_one_bit_mask harg)⟩
  · obtain ⟨hop, harg⟩ := fields_of_masked (op := 0x9) (argMask := 0xFC) (arg := 0) hcov
    exact ⟨.tick _ _, decode_of_fields hop (arg_of_two_bit_mask harg)⟩

theorem wordWellFormed_iff {w : Word} : wordWellFormed w = true ↔ ∃ i, decode w = .ok i := by
  refine ⟨decode_of_wordWellFormed, ?_⟩
  rintro ⟨i, h⟩
  obtain ⟨r, hr, hcov, -⟩ := encode_covered_by_own_row i
  rw [encode_of_decode h] at hcov
  exact List.any_eq_true.mpr ⟨r, hr, hcov⟩

/-- Only the last arm of R78 answers RESERVED_OP, and it takes the values of OP no other arm takes. -/
theorem decode_reservedOp_iff {w : Word} : decode w = .error .reservedOp ↔ ReservedOp w := by
  unfold decode
  simp only [ReservedOp, BitVec.toNat_eq]
  split
  case h_9 =>
    refine iff_of_true rfl ?_
    simp only [imp_false, BitVec.ofNat_eq_ofNat, BitVec.toNat_ofNat] at *
    omega
  all_goals
    rename_i hop
    simp [hop, ite_eq_iff]

theorem decode_reservedArg_iff {w : Word} :
    decode w = .error .reservedArg ↔ ¬ ReservedOp w ∧ wordWellFormed w = false := by
  rw [← decode_reservedOp_iff, Bool.eq_false_iff, Ne, wordWellFormed_iff]
  cases decode w with
  | ok i => simp
  | error e => cases e <;> simp

/-- Settles O3: the words a row covers are the encodings, which are the words that decode. -/
theorem decodingIsTotalByTheTable : Obligations.DecodingIsTotalByTheTable := by
  refine fun w => ⟨wordWellFormed_iff, fun i h => ?_, decode_reservedOp_iff, decode_reservedArg_iff⟩
  rw [← encode_of_decode h]
  exact encode_covered_by_own_row i

end Sys2Proof

namespace Sys2Proof.Machine

open Sys2Proof.Claims

/-! ## The assembler text (30_encoding.md R81) -/

theorem digitValue_digitText {n : Nat} (h : n < 16) : digitValue (digitText n) = some n := by
  interval_cases n <;> rfl

theorem parseByte_hex (h l : Char) : parseByte ['0', 'x', h, l] =
    (digitValue h).bind fun a => (digitValue l).map fun b => BitVec.ofNat 8 (16 * a + b) := by
  change (match digitValue h, digitValue l with
    | some a, some b => some (BitVec.ofNat 8 (16 * a + b))
    | _, _ => none) = _
  cases digitValue h <;> cases digitValue l <;> rfl

theorem parseByte_byteText (b : Byte) : parseByte (byteText b) = some b := by
  have hb := b.isLt
  have hdigits : 16 * (b.toNat / 16) + b.toNat % 16 = b.toNat := Nat.div_add_mod _ _
  have hhigh := digitValue_digitText (n := b.toNat / 16) (by omega)
  have hlow := digitValue_digitText (n := b.toNat % 16) (by omega)
  simp [byteText, parseByte_hex, hhigh, hlow, hdigits]

theorem parseAsm_send (rest : List Char) :
    parseAsm ('S' :: 'E' :: 'N' :: 'D' :: ' ' :: rest) = (parseByte rest).map .send := rfl

/-- Settles O5: the mnemonics differ, and each operand reads back. -/
theorem assemblerTextReadsBack : Obligations.AssemblerTextReadsBack := by
  intro i
  cases i with
  | send b =>
    calc parseAsm (asmText (.send b))
      _ = (parseByte (byteText b)).map .send := parseAsm_send _
      _ = some (.send b) := by rw [parseByte_byteText, Option.map_some]
  | edge d => cases d <;> rfl
  | tick c d => cases c <;> cases d <;> rfl
  | _ => rfl

/-! ## Refused words, and results (30_encoding.md R74, R76, R77) -/

/-- Settles O7, by the step's equation for a word that does not decode. -/
theorem reservedWordsAreRefused : Obligations.ReservedWordsAreRefused :=
  fun _ _ _ ha hl => ⟨step_of_reserved hl ha, step_of_reserved hl ha⟩

theorem ExecOutcome.result_of_query {i : Instr} {s t : State} (ho : ExecOutcome s i t) (hl : Live t)
    (hi : i = .busy ∨ i = .avail) : ∃ b, t.result = .bit b := by
  cases ho with
  | busy | avail => exact ⟨_, rfl⟩
  | blocked | badState => cases hl
  | _ => simp at hi

theorem ExecOutcome.result_of_getb {s t : State} (ho : ExecOutcome s .getb t) (hl : Live t) :
    ∃ b, t.result = .byte b := by
  cases ho with
  | getb => exact ⟨_, rfl⟩
  | blocked | badState | getbEmpty => cases hl

/-- Settles O10: the result is cleared before the stimulus runs, and only the three queries write it. -/
theorem resultsByStimulus : Obligations.ResultsByStimulus := by
  intro s w rest i t ha hd hstep hlive
  obtain ⟨hl, -⟩ := whenLive_next hstep
  rw [step_of_decoded hl ha hd] at hstep
  obtain ⟨-, ho⟩ := exec_outcome hstep
  refine ⟨ho.result_of_query hlive, ?_, fun hbusy havail hgetb => ?_⟩
  · rintro rfl
    exact ho.result_of_getb hlive
  · by_contra hne
    exact (ho.result_writer hne).elim hbusy (·.elim havail hgetb)

/-! ## The host's internal steps (42_host_api.md R167) -/

theorem hostInternal_start {s : State} (h : s.hostPhase = hostWaitStart) (hp : InPhase s .idle) :
    hostInternal s = { startSend s.hostByte s with hostPhase := hostWaitDone } := by
  simp [hostInternal, hstartEnabled, h, hp]

theorem hostInternal_return {s : State} (h : s.hostPhase = hostWaitDone) (hp : InPhase s .idle) :
    hostInternal s = { s with hostPhase := hostReady } := by
  have hne : hostWaitDone ≠ hostWaitStart := by decide
  simp [hostInternal, hstartEnabled, hretEnabled, h, hp, hne]

theorem hostInternal_held {s : State}
    (h : ¬ InPhase s .idle ∨ (s.hostPhase ≠ hostWaitStart ∧ s.hostPhase ≠ hostWaitDone)) : hostInternal s = s := by
  obtain ⟨hw, hp, -⟩ | ⟨hw, hp, -⟩ | ⟨-, heq⟩ := hostInternal_cases s
  · simp [hw, hp] at h
  · simp [hw, hp] at h
  · exact heq

/-- Settles O12: HSTART, HRET and the hold of the state in which the turn is taken. -/
theorem hostInternalSteps : Obligations.HostInternalSteps := by
  intro s rest ha hl
  rw [step_of_hostStep hl ha]
  refine ⟨?_, ?_, fun h => ?_⟩
  · rintro ⟨hw, hp⟩
    rw [hostInternal_start (s := takeHostStep s rest) hw hp]
    rfl
  · rintro ⟨hw, hp⟩
    rw [hostInternal_return (s := takeHostStep s rest) hw hp]
    rfl
  · rw [hostInternal_held (s := takeHostStep s rest) h]
    rfl

/-! ## Admissibility (30_encoding.md R75) -/

/-- Settles O13: every host command begins with the check of HOST_PHASE. -/
theorem blockedHostIsRefused : Obligations.BlockedHostIsRefused := by
  intro i s ha hl hr
  cases i with
  | edge | tick => cases ha
  | _ => exact hostCommand_of_blocked hl hr _

/-- Settles O14. -/
theorem disarmedTimerDoesNotTick : Obligations.DisarmedTimerDoesNotTick :=
  fun _ _ _ hl ht => execTick_disarmed hl ht

end Sys2Proof.Machine

/-! Scope: the framing engine (40_edge_engine.md): the meaning of EDGE in each protocol state (O19 to O26), the recovery
request after an edge (O27), and whole receive and transmit frames (O54, O55, O56). -/

namespace Sys2Proof.Machine

open Sys2Proof.Claims

/-! ## Edges that end in Error (40_edge_engine.md R112) -/

/-- What the recovery request makes of a state in Error. -/
theorem requestRecovery_of_error {s : State} (h : InPhase s .error) : requestRecovery s = errorByEdge s := by
  have hp : s.state = ProtocolState.error.code := h
  have h10 : (10 : BitVec 4) = s.state := hp.symm
  by_cases hr : s.recPhase = true
  · rw [requestRecovery, if_neg (by simp [hr]), errorByEdge, if_pos hr, if_pos hr, h10]
  · rw [requestRecovery, if_pos ⟨hp, by simpa using hr⟩, errorByEdge, if_neg hr, if_neg hr, h10]
    rfl

theorem errorByEdge_timerEn {s : State} (h : s.timerEn = true) : (errorByEdge s).timerEn = true := by
  simp [errorByEdge, h]

theorem errorByEdge_idem (s : State) : errorByEdge (errorByEdge s) = errorByEdge s := by
  cases hr : s.recPhase <;> simp [errorByEdge, hr]

/-- An accepted edge whose arm ends in Error is followed by the recovery request. -/
theorem exec_edge_of_error_arm {d : Bool} {s u : State} {p : ProtocolState} (ha : AcceptsEdge s p) (hs : Sound s)
    (hu : edgeArm d s p = .next u) (he : InPhase u .error) : exec (.edge d) s = .next (errorByEdge u) := by
  obtain ⟨hl, hen, hp⟩ := ha
  calc exec (.edge d) s
    _ = afterEdge (edgeArm d s p) := execEdge_taken hl hen hp hs
    _ = .next (requestRecovery u) := congrArg afterEdge hu
    _ = .next (errorByEdge u) := by rw [requestRecovery_of_error he]

/-- An arm that detects a protocol error leaves the state the statements spell out. -/
theorem exec_edge_of_detection {d : Bool} {s u : State} {p : ProtocolState} (ha : AcceptsEdge s p)
    (hd : p.dataState = false) (hu : edgeArm d s p = .next (enterError u)) :
    exec (.edge d) s = .next (errorByEdge u) :=
  exec_edge_of_error_arm (u := enterError u) ha (sound_of_acceptsEdge ha hd) hu rfl

/-- An arm that ends in Error writes no timer register of its own. -/
theorem EdgeOutcome.timer_of_error {d : Bool} {s u : State} (hu : EdgeOutcome d s u) (he : InPhase u .error) :
    u.timerEn = s.timerEn ∧ u.timerPer = s.timerPer := by
  cases hu with
  | startBit => cases code_injective (p := .receivingData) he
  | goodStop => cases code_injective (p := .idle) he
  | _ => exact ⟨rfl, rfl⟩

/-- Settles O27: an edge that leaves Error was neither lost nor a fault, so R112 read the state its arm left. -/
theorem everyEdgeInErrorRequestsRecovery : Obligations.EveryEdgeInErrorRequestsRecovery := by
  intro s d t hl hen hexec hp
  obtain ⟨-, ho⟩ := exec_outcome hexec
  cases ho with
  | blocked hhost => cases hhost
  | edgeLost hoff => exact absurd (hen.symm.trans hoff) (by decide)
  | badState _ hs => exact absurd (sound_of_phase hp rfl) hs
  | @edge _ u _ _ hu =>
    have he : InPhase u .error := (requestRecovery_state u).symm.trans hp
    obtain ⟨htimer, hper⟩ := hu.timer_of_error he
    rw [requestRecovery_recPhase, requestRecovery_of_error he]
    refine ⟨fun hr => ?_, fun hr => ?_⟩
    · simp [errorByEdge, hr]
    · simp [errorByEdge, hr, htimer, hper]

/-! ## The receive arms (40_edge_engine.md R101 to R104) -/

theorem exec_badStart {s : State} (ha : AcceptsEdge s .idle) : exec (.edge true) s = .next (errorByEdge s) :=
  exec_edge_of_detection ha rfl rfl

theorem exec_badParity {d : Bool} {s : State} (ha : AcceptsEdge s .receivingParity)
    (hd : parityStep s.parity d = false) : exec (.edge d) s = .next (errorByEdge { s with parity := false }) :=
  exec_edge_of_detection ha rfl (by simp [edgeArm, edgeReceivingParity, hd])

theorem exec_badStop {s : State} (ha : AcceptsEdge s .receivingStop) :
    exec (.edge false) s = .next (errorByEdge s) :=
  exec_edge_of_detection ha rfl rfl

/-- An edge in a data state without bits left to count (40_edge_engine.md R102, R106). -/
theorem exec_edge_of_bad_bitcnt {d : Bool} {s : State} (hl : Live s) (hen : s.edgeEn = true)
    (hp : InPhase s .receivingData ∨ InPhase s .transmittingData)
    (hb : ¬ (1 ≤ s.bitcnt.toNat ∧ s.bitcnt.toNat ≤ 8)) : exec (.edge d) s = .next (record .badState s) :=
  execEdge_of_unsound hl hen fun ⟨_, hcount⟩ => hb (hcount hp)

/-- Settles O19. -/
theorem edgeStartBit : Obligations.EdgeStartBit := fun _ ha => ⟨exec_startBit ha, exec_badStart ha⟩

/-- Settles O20: the last bit leaves ReceivingData, any other stays there. -/
theorem edgeReceivedDataBit : Obligations.EdgeReceivedDataBit := by
  intro s d ha
  obtain ⟨hl, hen, hp⟩ := ha
  refine ⟨fun hb => ?_, exec_edge_of_bad_bitcnt hl hen (.inl hp)⟩
  by_cases h1 : s.bitcnt = 1
  · rw [exec_lastDataBit ⟨hl, hen, hp⟩ h1, if_pos h1, h1]
    rfl
  · have hstate : s.state = 1 := hp
    rw [exec_dataBit ⟨hl, hen, hp⟩ (two_le_of_ne_one hb h1), if_neg h1, ← hstate]
    rfl

/-- Settles O21. -/
theorem edgeReceivedParityBit : Obligations.EdgeReceivedParityBit :=
  fun _ _ ha => ⟨exec_goodParity ha, exec_badParity ha⟩

/-- Settles O22. -/
theorem edgeStopBit : Obligations.EdgeStopBit := by
  intro s ha
  refine ⟨fun hh => ?_, exec_badStop ha⟩
  exact ⟨_, exec_goodStop ha hh, Memory.read_write_same _ _ _, fun slot hne => Memory.read_write_other _ _ _ _ hne⟩

/-! ## Edges in the timer-owned states (40_edge_engine.md R105, R110, R111) -/

theorem exec_edge_in_error {d : Bool} {s : State} (ha : AcceptsEdge s .error) :
    exec (.edge d) s = .next (errorByEdge s) := by
  obtain ⟨hl, hen, hp⟩ := ha
  exact exec_edge_of_error_arm ⟨hl, hen, hp⟩ (sound_of_phase hp rfl) rfl hp

/-- Settles O23. -/
theorem edgeInTimerOwnedStates : Obligations.EdgeInTimerOwnedStates := by
  intro s d
  refine ⟨fun ⟨hl, hen, hp⟩ => ?_, fun ⟨hl, hen, hp⟩ => ?_, exec_edge_in_error⟩
  · exact exec_edge_of_arm ⟨hl, hen, hp⟩ (sound_of_phase hp rfl) rfl hp nofun
  · exact exec_edge_of_arm ⟨hl, hen, hp⟩ (sound_of_phase hp rfl) rfl hp nofun

/-! ## The transmit arms (40_edge_engine.md R106 to R109) -/

/-- The state a data bit out leaves (40_edge_engine.md R106). -/
def bitTransmitted (s : State) : State :=
  { s with
    dat := s.dat.drive (outgoingBit s.shift)
    parity := parityStep s.parity (outgoingBit s.shift)
    shift := shiftOut s.shift
    bitcnt := s.bitcnt - 1
    bark := s.params.barkBit
    state := if s.bitcnt = 1 then ProtocolState.transmittingParity.code else ProtocolState.transmittingData.code }

theorem bitTransmitted_last {s : State} (h : s.bitcnt = 1) : InPhase (bitTransmitted s) .transmittingParity :=
  if_pos h

theorem bitTransmitted_not_last {s : State} (h : s.bitcnt ≠ 1) : InPhase (bitTransmitted s) .transmittingData :=
  if_neg h

theorem exec_transmittedBit {d : Bool} {s : State} (ha : AcceptsEdge s .transmittingData)
    (hb : 1 ≤ s.bitcnt.toNat ∧ s.bitcnt.toNat ≤ 8) : exec (.edge d) s = .next (bitTransmitted s) := by
  obtain ⟨hl, hen, hp⟩ := ha
  have hstate : s.state = ProtocolState.transmittingData.code := hp
  have hs : Sound s := ⟨by rw [hstate]; decide, fun _ => hb⟩
  have harm : edgeArm d s .transmittingData = .next (bitTransmitted s) := by
    simp only [edgeArm, edgeTransmittingData, bitTransmitted, sub_one_eq_zero_iff, hstate]
  by_cases h1 : s.bitcnt = 1
  · exact exec_edge_of_arm ⟨hl, hen, hp⟩ hs harm (bitTransmitted_last h1) nofun
  · exact exec_edge_of_arm ⟨hl, hen, hp⟩ hs harm (bitTransmitted_not_last h1) nofun

/-- The state the parity bit out leaves (40_edge_engine.md R107). -/
def parityTransmitted (s : State) : State :=
  { s with
    dat := s.dat.drive (parityBit s.parity)
    state := ProtocolState.transmittingStop.code
    bark := s.params.barkBit }

theorem exec_transmittedParity {d : Bool} {s : State} (ha : AcceptsEdge s .transmittingParity) :
    exec (.edge d) s = .next (parityTransmitted s) :=
  exec_edge_of_arm (q := .transmittingStop) ha (sound_of_acceptsEdge ha rfl) rfl rfl nofun

/-- The state the stop bit out leaves (40_edge_engine.md R108). -/
def stopTransmitted (s : State) : State :=
  { s with
    dat := (s.dat.drive true).release
    clk := s.clk.release
    state := ProtocolState.awaitingAck.code
    bark := s.params.barkBit }

theorem exec_transmittedStop {d : Bool} {s : State} (ha : AcceptsEdge s .transmittingStop) :
    exec (.edge d) s = .next (stopTransmitted s) :=
  exec_edge_of_arm (q := .awaitingAck) ha (sound_of_acceptsEdge ha rfl) rfl rfl nofun

theorem exec_ack {s : State} (ha : AcceptsEdge s .awaitingAck) :
    exec (.edge false) s = .next { s with idlecnt := s.params.idleWait, state := ProtocolState.awaitingIdle.code } :=
  exec_edge_of_arm (q := .awaitingIdle) ha (sound_of_acceptsEdge ha rfl) rfl rfl nofun

theorem exec_noAck {s : State} (ha : AcceptsEdge s .awaitingAck) : exec (.edge true) s = .next (errorByEdge s) :=
  exec_edge_of_detection ha rfl rfl

/-- Settles O24. -/
theorem edgeTransmittedDataBit : Obligations.EdgeTransmittedDataBit := by
  intro s d ha
  obtain ⟨hl, hen, hp⟩ := ha
  exact ⟨exec_transmittedBit ⟨hl, hen, hp⟩, exec_edge_of_bad_bitcnt hl hen (.inr hp)⟩

/-- Settles O25. -/
theorem edgeTransmittedParityAndStop : Obligations.EdgeTransmittedParityAndStop :=
  fun _ _ => ⟨exec_transmittedParity, exec_transmittedStop⟩

/-- Settles O26. -/
theorem edgeAcknowledgement : Obligations.EdgeAcknowledgement := fun _ ha => ⟨exec_ack ha, exec_noAck ha⟩

/-! ## Receive frames, well-formed or not (40_edge_engine.md R113) -/

/-- The accumulator over a byte's bits is their exclusive-or as the statements write it. -/
theorem parityOf_wireBits (b : Byte) : parityOf (wireBits b) false = bitXor b := by
  have hbits : wireBits b = [b.getLsbD 0, b.getLsbD 1, b.getLsbD 2, b.getLsbD 3, b.getLsbD 4, b.getLsbD 5,
    b.getLsbD 6, b.getLsbD 7] := rfl
  simp only [hbits, parityOf, List.foldl_cons, List.foldl_nil, parityStep, Bool.false_xor, bitXor]

theorem oddParity_eq (b : Byte) : oddParity b = !bitXor b := congrArg parityBit (parityOf_wireBits b)

/-- Only the odd parity bit makes a frame's parity odd. -/
theorem eq_oddParity {b : Byte} {p : Bool} (h : (bitXor b ^^ p) = true) : p = oddParity b := by
  have hne : p ≠ bitXor b := fun heq => by simp [heq] at h
  rw [oddParity_eq, Bool.eq_not.mpr hne]

/-- The parity bit and the stop bit of a frame whose parity is even: the stop bit finds Error. -/
theorem execAll_evenParity {p stop : Bool} {s : State} (ha : AcceptsEdge s .receivingParity)
    (hp : parityStep s.parity p = false) :
    execAll [.edge p, .edge stop] s = .next (errorByEdge { s with parity := false }) := by
  have hparity := exec_badParity ha hp
  obtain ⟨hl, hen, -⟩ := ha
  have hstop : exec (.edge stop) (errorByEdge { s with parity := false }) = .next _ :=
    exec_edge_in_error ⟨hl, hen, rfl⟩
  rw [errorByEdge_idem] at hstop
  rw [execAll_cons hparity, execAll_cons hstop]
  rfl

/-- The parity bit and the stop bit of a frame whose parity is odd and whose stop bit is 0. -/
theorem execAll_zeroStop {p : Bool} {s : State} (ha : AcceptsEdge s .receivingParity)
    (hp : parityStep s.parity p = true) :
    execAll [.edge p, .edge false] s = .next (errorByEdge (parityAccepted s)) := by
  have hparity := exec_goodParity ha hp
  obtain ⟨hl, hen, -⟩ := ha
  have hstop : exec (.edge false) (parityAccepted s) = .next _ := exec_badStop ⟨hl, hen, rfl⟩
  rw [execAll_cons hparity, execAll_cons hstop]
  rfl

/-- What a frame that is not well-formed leaves: Error with the timer armed, and the buffer unchanged. -/
abbrev FrameRejected (s t : State) : Prop :=
  InPhase t .error ∧ t.timerEn = true ∧ t.head = s.head ∧ t.tail = s.tail ∧ t.rxbuf = s.rxbuf

theorem execAll_rxFrameWith_rejected {s : State} {b : Byte} {p stop : Bool} (ha : AcceptsEdge s .idle)
    (hbad : ¬ ((bitXor b ^^ p) = true ∧ stop = true)) :
    ∃ t, execAll (rxFrameWith b p stop) s = .next t ∧ FrameRejected s t := by
  obtain ⟨hl, hen, hp⟩ := ha
  have hdata : execAll (rxFrameWith b p stop) s =
      execAll [.edge p, .edge stop] (dataReceived (wireBits b) (frameStarted s)) :=
    execAll_append (execAll_startAndData b ⟨hl, hen, hp⟩) [.edge p, .edge stop]
  have hacc : parityStep (dataReceived (wireBits b) (frameStarted s)).parity p = (bitXor b ^^ p) :=
    congrArg (parityStep · p) (parityOf_wireBits b)
  rw [hdata]
  cases hodd : bitXor b ^^ p with
  | false =>
    exact ⟨_, execAll_evenParity ⟨hl, hen, rfl⟩ (hacc.trans hodd), rfl, errorByEdge_timerEn rfl, rfl, rfl, rfl⟩
  | true =>
    obtain rfl : stop = false := by simpa [hodd] using hbad
    exact ⟨_, execAll_zeroStop ⟨hl, hen, rfl⟩ (hacc.trans hodd), rfl, errorByEdge_timerEn rfl, rfl, rfl, rfl⟩

/-- Settles O54: a frame of odd parity and stop bit 1 is the well-formed one, and every other is rejected. -/
theorem receiveFrame : Obligations.ReceiveFrame := by
  intro s b p stop ha _ hh
  refine ⟨?_, _, exec_badStart ha, rfl⟩
  by_cases hgood : (bitXor b ^^ p) = true ∧ stop = true
  · obtain ⟨hodd, rfl⟩ := hgood
    obtain rfl := eq_oddParity hodd
    exact ⟨received b s, execAll_rxFrame b ha hh,
      fun _ => ⟨rfl, rfl, rfl, rfl, Memory.read_write_same _ _ _,
        fun slot hne => Memory.read_write_other _ _ _ _ hne⟩,
      fun hbad => absurd ⟨hodd, rfl⟩ hbad⟩
  · obtain ⟨t, hexec, hrejected⟩ := execAll_rxFrameWith_rejected ha hgood
    exact ⟨t, hexec, fun h => absurd h hgood, fun _ => hrejected⟩

/-! ## Transmit frames (40_edge_engine.md R114, R115) -/

/-- The edges with the samples `ds` lead from `s` to `t`, and the block drives the levels `levels` after them. -/
structure Drives (ds : List Bool) (s : State) (levels : List (Option Bool)) (t : State) : Prop where
  run : execAll (edges ds) s = .next t
  driven : drivenLevels ds s = levels

theorem Drives.nil (s : State) : Drives [] s [] s := ⟨rfl, rfl⟩

theorem Drives.cons {d : Bool} {ds : List Bool} {s u t : State} {levels : List (Option Bool)}
    (h : exec (.edge d) s = .next u) (hd : Drives ds u levels t) : Drives (d :: ds) s (u.dat.driven :: levels) t := by
  refine ⟨(execAll_cons h _).trans hd.run, ?_⟩
  simp only [drivenLevels, h, hd.driven]

theorem Drives.append {ds es : List Bool} {s u t : State} {levels more : List (Option Bool)}
    (h : Drives ds s levels u) (he : Drives es u more t) : Drives (ds ++ es) s (levels ++ more) t := by
  induction ds generalizing s levels with
  | nil =>
    obtain ⟨hrun, rfl⟩ := h
    cases hrun
    exact he
  | cons d ds ih =>
    obtain ⟨hrun, rfl⟩ := h
    cases hd : exec (.edge d) s with
    | next v =>
      have htail : Drives ds v (drivenLevels ds v) u := ⟨(execAll_cons hd _).symm.trans hrun, rfl⟩
      simpa only [drivenLevels, hd, List.cons_append] using Drives.cons hd (ih htail)
    | fault | refused => simp [edges, execAll, hd] at hrun

/-- The first `n` bits SHIFT sends, in wire order (20_memory.md R58). -/
def outgoingBits (n : Nat) (v : Byte) : List Bool := (List.range n).map v.getLsbD

theorem outgoingBits_eight (b : Byte) : outgoingBits 8 b = wireBits b := rfl

theorem outgoingBits_succ (n : Nat) (v : Byte) :
    outgoingBits (n + 1) v = outgoingBit v :: outgoingBits n (shiftOut v) := by
  simp [outgoingBits, outgoingBit, shiftOut, List.range_succ_eq_map, Nat.add_comm]

/-- The data bits out drive the bits of SHIFT and add them to PARITY, whatever is sampled (40_edge_engine.md R106). -/
theorem drives_dataBits {ds : List Bool} {s : State} (ha : AcceptsEdge s .transmittingData)
    (hn : s.bitcnt.toNat = ds.length) (hpos : 1 ≤ ds.length) (hle : ds.length ≤ 8) :
    ∃ t, Drives ds s ((outgoingBits ds.length s.shift).map some) t ∧ AcceptsEdge t .transmittingParity ∧
      t.parity = parityOf (outgoingBits ds.length s.shift) s.parity := by
  induction ds generalizing s with
  | nil => simp at hpos
  | cons d ds ih =>
    have hbit : exec (.edge d) s = .next (bitTransmitted s) := exec_transmittedBit ha (by omega)
    obtain ⟨hl, hen, -⟩ := ha
    rw [List.length_cons, outgoingBits_succ]
    cases ds with
    | nil =>
      have hlast := bitTransmitted_last (BitVec.eq_of_toNat_eq hn)
      exact ⟨_, .cons hbit (.nil _), ⟨hl, hen, hlast⟩, rfl⟩
    | cons d' ds =>
      simp only [List.length_cons] at hn
      have hne : s.bitcnt ≠ 1 := fun h => by simp [h] at hn
      have hcount : (bitTransmitted s).bitcnt.toNat = (d' :: ds).length := by
        have hsub := toNat_sub_one (n := s.bitcnt) (by omega)
        exact hsub.trans (by simp [hn])
      obtain ⟨t, hdrives, haccepts, hparity⟩ :=
        ih (s := bitTransmitted s) ⟨hl, hen, bitTransmitted_not_last hne⟩ hcount (by simp) (Nat.le_of_succ_le hle)
      exact ⟨t, .cons hbit hdrives, haccepts, hparity⟩

/-- The first nine edges of a transmit frame drive the byte's bits and its odd parity bit. -/
theorem drives_dataAndParity {ds : List Bool} {s : State} (ha : AcceptsEdge s .transmittingData)
    (hbits : s.bitcnt = 8) (hparity : s.parity = false) (hlen : ds.length = 9) :
    ∃ t, Drives ds s ((wireBits s.shift ++ [oddParity s.shift]).map some) t ∧ AcceptsEdge t .transmittingStop := by
  obtain ⟨es, e, rfl⟩ := (List.eq_nil_or_concat' ds).resolve_left (List.ne_nil_of_length_pos (by omega))
  have hes : es.length = 8 := by simpa using hlen
  obtain ⟨t, hdrives, haccepts, hacc⟩ := drives_dataBits ha (by rw [hbits, hes]; rfl) (by omega) (by omega)
  rw [hes, outgoingBits_eight] at hdrives hacc
  have hodd : parityBit t.parity = oddParity s.shift := by rw [hacc, hparity]; rfl
  have hlevel : (parityTransmitted t).dat.driven = some (oddParity s.shift) := congrArg some hodd
  have hlast := Drives.cons (exec_transmittedParity (d := e) haccepts) (.nil _)
  obtain ⟨hl, hen, -⟩ := haccepts
  rw [hlevel] at hlast
  exact ⟨parityTransmitted t, by simpa using hdrives.append hlast, hl, hen, rfl⟩

/-- Settles O55. -/
theorem transmitFrame : Obligations.TransmitFrame := by
  rintro s b ds ha rfl hbits hparity - hlen
  obtain ⟨es, e, rfl⟩ := (List.eq_nil_or_concat' ds).resolve_left (List.ne_nil_of_length_pos (by omega))
  obtain ⟨t, hdrives, haccepts⟩ := drives_dataAndParity (ds := es) ha hbits hparity (by simpa using hlen)
  obtain ⟨hrun, hdriven⟩ := hdrives.append (.cons (exec_transmittedStop (d := e) haccepts) (.nil _))
  obtain ⟨hl, hen, -⟩ := haccepts
  have hack : AcceptsEdge (stopTransmitted t) .awaitingAck := ⟨hl, hen, rfl⟩
  refine ⟨?_, _, hrun, rfl, rfl, rfl, ⟨_, exec_ack hack, rfl⟩, _, exec_noAck hack, rfl⟩
  rw [hdriven, oddParity_eq]
  rfl

/-- Settles O56: the levels driven are the samples of the well-formed receive frame. -/
theorem transmittedFrameIsReceived : Obligations.TransmittedFrameIsReceived := by
  rintro s r b ds ha rfl hbits hparity hlen hr hh
  obtain ⟨t, hdrives, -⟩ := drives_dataAndParity ha hbits hparity hlen
  have hlevels : (drivenLevels ds s).map (·.getD true) = wireBits s.shift ++ [oddParity s.shift] := by
    simp [hdrives.driven]
  rw [hlevels]
  exact ⟨received s.shift r, execAll_rxFrame s.shift hr hh, rfl, rfl, Memory.read_write_same _ _ _⟩

end Sys2Proof.Machine

/-! Scope: the timeout and recovery controller (41_timer_controller.md): the meaning of TICK in each protocol state (O28
to O32), the exact bark countdown (O57), the recovery in two ticks (O58), and the way to Idle by ticks alone (O59). -/

namespace Sys2Proof.Machine

open Sys2Proof.Claims

/-! ## The arms of TICK (41_timer_controller.md R130 to R137) -/

/-- Outside the data states every code is sound, and the tick runs the arm of its protocol state. -/
theorem exec_tick_of_phase {c d : Bool} {s : State} {p : ProtocolState} (ha : AcceptsTick s p)
    (hd : p.dataState = false) : exec (.tick c d) s = .next (tickArm c d s p) := by
  obtain ⟨hl, ht, hp⟩ := ha
  exact execTick_taken hl ht hp (sound_of_phase hp hd)

/-- Settles O28. -/
theorem tickInIdleDisarms : Obligations.TickInIdleDisarms := fun _ _ _ ha => exec_tick_of_phase ha rfl

/-- Settles O29. -/
theorem tickCompletesHandshake : Obligations.TickCompletesHandshake := fun _ _ _ ha => exec_tick_of_phase ha rfl

theorem tickArm_of_watched {c d : Bool} {s : State} {p : ProtocolState} (hw : p.watched = true) :
    tickArm c d s p = tickWatched s := by
  cases p with
  | idle | requestingSend | awaitingIdle | error => cases hw
  | receivingData | receivingParity | receivingStop | transmittingData | transmittingParity | transmittingStop
  | awaitingAck => rfl

/-- A tick runs the bark countdown: the timer is armed and the block is in a sound watched state. -/
abbrev AcceptsWatchedTick (s : State) : Prop := Live s ∧ s.timerEn = true ∧ InWatched s ∧ Sound s

theorem exec_tick_in_watched {c d : Bool} {s : State} (ha : AcceptsWatchedTick s) :
    exec (.tick c d) s = .next (tickWatched s) := by
  obtain ⟨hl, ht, hw, hs⟩ := ha
  obtain ⟨p, hw, hp⟩ := inWatched_iff.mp hw
  calc exec (.tick c d) s
    _ = .next (tickArm c d s p) := execTick_taken hl ht hp hs
    _ = .next (tickWatched s) := by rw [tickArm_of_watched hw]

theorem exec_tick_of_bark_zero {c d : Bool} {s : State} (ha : AcceptsWatchedTick s) (hb : s.bark = 0) :
    exec (.tick c d) s = .next (enterError s) :=
  (exec_tick_in_watched ha).trans (congrArg _ (if_pos hb))

theorem exec_tick_barks {c d : Bool} {s : State} (ha : AcceptsWatchedTick s) (hb : s.bark = 1) :
    exec (.tick c d) s = .next (enterError { s with bark := 0 }) := by
  simp [exec_tick_in_watched ha, tickWatched, hb]

theorem exec_tick_lowersBark {c d : Bool} {s : State} (ha : AcceptsWatchedTick s) (hb : 2 ≤ s.bark) :
    exec (.tick c d) s = .next { s with bark := s.bark - 1 } := by
  rw [exec_tick_in_watched ha, tickWatched, if_neg (by omega), if_neg (by omega)]

/-- Settles O30. -/
theorem tickCountsBarkDown : Obligations.TickCountsBarkDown := by
  intro s c d hl ht hw hs
  have ha : AcceptsWatchedTick s := ⟨hl, ht, hw, hs⟩
  exact ⟨exec_tick_of_bark_zero ha, exec_tick_barks ha, exec_tick_lowersBark ha⟩

theorem busIdle_iff {c d : Bool} : busIdle c d = true ↔ c = true ∧ d = true := by simp [busIdle]

/-- Settles O31: the lines are read first, then the counter. -/
theorem tickEndsTransmission : Obligations.TickEndsTransmission := by
  intro s c d ha
  have harm : exec (.tick c d) s = .next (tickAwaitingIdle c d s) := exec_tick_of_phase ha rfl
  rw [harm, tickAwaitingIdle, ← busIdle_iff]
  refine ⟨fun hbus => ?_, fun hbus hi => ?_, fun hbus hi => ?_, fun hbus hi => ?_⟩
  · rw [if_pos hbus]
    rfl
  · rw [if_neg hbus, if_pos hi]
    rfl
  · rw [if_neg hbus, if_neg (by omega), if_pos (by omega), hi]
    rfl
  · rw [if_neg hbus, if_neg (by omega), if_neg (by omega)]

theorem exec_tick_startsRecovery {c d : Bool} {s : State} (ha : AcceptsTick s .error) (hr : s.recPhase = false) :
    exec (.tick c d) s = .next (startRecovery s) :=
  (exec_tick_of_phase ha rfl).trans (congrArg _ (if_pos hr))

theorem exec_tick_endsRecovery {c d : Bool} {s : State} (ha : AcceptsTick s .error) (hr : s.recPhase = true) :
    exec (.tick c d) s = .next (endRecovery s) :=
  (exec_tick_of_phase ha rfl).trans (congrArg _ (if_neg (by simp [hr])))

/-- Settles O32. -/
theorem tickStartsAndEndsRecovery : Obligations.TickStartsAndEndsRecovery :=
  fun _ _ _ ha => ⟨exec_tick_startsRecovery ha, exec_tick_endsRecovery ha⟩

/-! ## The countdown to Error (41_timer_controller.md R134, R139) -/

/-- Fewer ticks than BARK only lower it. -/
theorem execAll_ticks_lower_bark {cds : List (Bool × Bool)} {s : State} (ha : AcceptsWatchedTick s)
    (hb : cds.length < s.bark) : execAll (ticks cds) s = .next { s with bark := s.bark - cds.length } := by
  induction cds generalizing s with
  | nil => rfl
  | cons cd cds ih =>
    rw [List.length_cons] at hb ⊢
    have htick := exec_tick_lowersBark (c := cd.1) (d := cd.2) ha (by omega)
    calc execAll (ticks (cd :: cds)) s
      _ = execAll (ticks cds) { s with bark := s.bark - 1 } := execAll_cons htick _
      _ = .next { s with bark := s.bark - 1 - cds.length } := ih ha (Nat.lt_sub_of_add_lt hb)
      _ = .next { s with bark := s.bark - (cds.length + 1) } := by rw [Nat.sub_sub, Nat.add_comm 1]

/-- Settles O57: `n` ticks leave BARK at 1, and the tick after them barks. -/
theorem barkExpiresExactly : Obligations.BarkExpiresExactly := by
  intro s cds n cd hl ht hw hs hb hlen
  have hdown := execAll_ticks_lower_bark (cds := cds) ⟨hl, ht, hw, hs⟩ (by omega)
  rw [hb] at hdown
  refine ⟨hdown, fun hn => ?_⟩
  have hone : n + 1 - cds.length = 1 := by omega
  rw [hone] at hdown
  have hbark : exec (.tick cd.1 cd.2) { s with bark := 1 } = .next (enterError { s with bark := 0 }) :=
    exec_tick_barks ⟨hl, ht, hw, hs⟩ rfl
  calc execAll (ticks (cds ++ [cd])) s
    _ = execAll (ticks cds ++ [.tick cd.1 cd.2]) s := by simp [ticks]
    _ = execAll [.tick cd.1 cd.2] { s with bark := 1 } := execAll_append hdown _
    _ = .next (enterError { s with bark := 0 }) := execAll_cons hbark []

/-! ## Recovery in two ticks (41_timer_controller.md R136, R137; 60_exceptions.md R203) -/

theorem errorByEdge_of_armed {s : State} (hp : InPhase s .error) (ht : s.timerEn = true) :
    errorByEdge s = { s with timerPer := if s.recPhase then s.timerPer else 1 } := by
  have hstate : s.state = 10 := hp
  simp [errorByEdge, ht, ← hstate]

/-- With the timer armed, an edge in Error is lost or asks for the recovery that is already due: at most TIMER_PER
changes. -/
theorem exec_edge_in_armed_error {d : Bool} {s : State} (ha : AcceptsTick s .error) :
    ∃ per, exec (.edge d) s = .next { s with timerPer := per } := by
  obtain ⟨hl, ht, hp⟩ := ha
  by_cases he : s.edgeEn = true
  · exact ⟨_, (exec_edge_in_error ⟨hl, he, hp⟩).trans (congrArg _ (errorByEdge_of_armed hp ht))⟩
  · exact ⟨s.timerPer, execEdge_lost hl (by simpa using he)⟩

theorem execAll_edges_in_armed_error {s : State} (ds : List Bool) (ha : AcceptsTick s .error) :
    ∃ per, execAll (edges ds) s = .next { s with timerPer := per } := by
  induction ds generalizing s with
  | nil => exact ⟨s.timerPer, rfl⟩
  | cons d ds ih =>
    obtain ⟨per, hedge⟩ := exec_edge_in_armed_error (d := d) ha
    obtain ⟨per', hedges⟩ := ih (s := { s with timerPer := per }) ha
    exact ⟨per', (execAll_cons hedge _).trans hedges⟩

/-- Settles O58: the edges change TIMER_PER at most, so each tick finds Error as the one before it left it. -/
theorem errorRecoversInTwoTicks : Obligations.ErrorRecoversInTwoTicks := by
  intro s ds es c d e f hl ht hp hr
  obtain ⟨per, hbefore⟩ := execAll_edges_in_armed_error ds ⟨hl, ht, hp⟩
  have hstart : exec (.tick c d) { s with timerPer := per } = .next (startRecovery { s with timerPer := per }) :=
    exec_tick_startsRecovery ⟨hl, ht, hp⟩ hr
  have hheld : AcceptsTick (startRecovery { s with timerPer := per }) .error := ⟨hl, rfl, hp⟩
  obtain ⟨per', hbetween⟩ := execAll_edges_in_armed_error es hheld
  have hrun := (execAll_append hbefore _).trans ((execAll_cons hstart (edges es)).trans hbetween)
  exact ⟨_, _, hrun, hp, exec_tick_endsRecovery hheld rfl,
    rfl, rfl, rfl, rfl, rfl, rfl, rfl, rfl, rfl, rfl, rfl, rfl, rfl⟩

/-! ## Ticks alone reach Idle (41_timer_controller.md R139)

Each protocol state has a bound on the ticks still to come before Idle, and each tick lowers it. -/

/-- As many ticks as can come before Idle: the two of recovery, before them the counter of the protocol state, and
before it the tick that completes a handshake. -/
def ticksToIdle (s : State) : ProtocolState → Nat
  | .idle => 0
  | .error => if s.recPhase then 1 else 2
  | .awaitingIdle => s.idlecnt + 2
  | .requestingSend => s.params.barkRts + 3
  | .receivingData | .receivingParity | .receivingStop | .transmittingData | .transmittingParity | .transmittingStop
  | .awaitingAck => s.bark + 2

theorem ticksToIdle_of_watched {s : State} {p : ProtocolState} (hw : p.watched = true) :
    ticksToIdle s p = s.bark + 2 := by
  cases p with
  | idle | requestingSend | awaitingIdle | error => cases hw
  | receivingData | receivingParity | receivingStop | transmittingData | transmittingParity | transmittingStop
  | awaitingAck => rfl

theorem eq_idle_of_ticksToIdle_eq_zero {s : State} {p : ProtocolState} (h : ticksToIdle s p = 0) : p = .idle := by
  cases p with
  | idle => rfl
  | error => cases hr : s.recPhase <;> simp [ticksToIdle, hr] at h
  | _ => cases h

theorem ticksToIdle_error_le_two (s : State) : ticksToIdle s .error ≤ 2 := by
  rw [ticksToIdle]
  split <;> decide

theorem ticksToIdle_le {s : State} {p : ProtocolState} (hc : LegalParams s) (h : EngineOk s) :
    ticksToIdle s p ≤ 2 ^ s.params.cntW + 3 := by
  obtain ⟨⟨-, hbark, hidle, -⟩, -⟩ := h
  obtain ⟨-, hload⟩ := barkRts_load hc
  cases hw : p.watched with
  | true =>
    rw [ticksToIdle_of_watched hw]
    omega
  | false =>
    cases p with
    | idle => exact Nat.zero_le _
    | error => exact (ticksToIdle_error_le_two s).trans (by omega)
    | awaitingIdle | requestingSend => simp only [ticksToIdle]; omega
    | _ => cases hw

/-- Outside Idle the timer is armed (10_state.md R42 items 3 to 6). -/
theorem PhaseOk.armed {s : State} {p : ProtocolState} (h : PhaseOk s p) (hne : p ≠ .idle) : s.timerEn = true := by
  cases hw : p.watched with
  | true => exact (h.of_watched hw).2.2
  | false =>
    cases p with
    | idle => exact absurd rfl hne
    | requestingSend | awaitingIdle => exact h.2.1
    | error => exact h.1
    | _ => cases hw

theorem TickOutcome.lowers_ticksToIdle {c d : Bool} {s u : State} {p : ProtocolState} (hu : TickOutcome c d s u)
    (h : EngineOk s) (hp : InPhase s p) (hne : p ≠ .idle) : ∃ q, InPhase u q ∧ ticksToIdle u q < ticksToIdle s p := by
  have same {q : ProtocolState} (hq : InPhase s q) : q = p := code_injective (hq.symm.trans hp)
  cases hu with
  | stale hq => exact absurd (same hq).symm hne
  | handshake hq =>
    obtain rfl := same hq
    exact ⟨.transmittingData, rfl, by simp [ticksToIdle]⟩
  | barkDown hw hb =>
    obtain ⟨q, hw, hq⟩ := inWatched_iff.mp hw
    obtain rfl := same hq
    exact ⟨q, hp, by simp only [ticksToIdle_of_watched hw]; omega⟩
  | barked hw =>
    obtain ⟨q, hw, hq⟩ := inWatched_iff.mp hw
    obtain rfl := same hq
    obtain ⟨-, hbark, -⟩ := (h.phaseOk hp).of_watched hw
    refine ⟨.error, rfl, (ticksToIdle_error_le_two _).trans_lt ?_⟩
    rw [ticksToIdle_of_watched hw]
    omega
  | busIdle hq =>
    obtain rfl := same hq
    exact ⟨.idle, rfl, Nat.succ_pos _⟩
  | idleDown hq _ hi =>
    obtain rfl := same hq
    exact ⟨.awaitingIdle, hp, by simp only [ticksToIdle]; omega⟩
  | idleTimeout hq =>
    obtain rfl := same hq
    obtain ⟨-, -, hidle⟩ := h.phaseOk hp
    exact ⟨.error, rfl, (ticksToIdle_error_le_two _).trans_lt (by simp only [ticksToIdle]; omega)⟩
  | recoveryStart hq hr =>
    obtain rfl := same hq
    exact ⟨.error, hp, by simp [ticksToIdle, hr]⟩
  | recoveryEnd hq hr =>
    obtain rfl := same hq
    exact ⟨.idle, rfl, by simp [ticksToIdle, hr]⟩

/-- From a coherent state outside Idle a tick is taken, and brings Idle nearer. -/
theorem exec_tick_lowers_ticksToIdle (c d : Bool) {s : State} {p : ProtocolState} (hc : Coherent s) (hl : Live s)
    (hp : InPhase s p) (hne : p ≠ .idle) :
    ∃ u q, exec (.tick c d) s = .next u ∧ Coherent u ∧ Live u ∧ InPhase u q ∧ ticksToIdle u q < ticksToIdle s p := by
  obtain ⟨-, he, -⟩ := coherent_iff.mp hc
  have hexec : exec (.tick c d) s = .next (tickArm c d s p) :=
    execTick_taken hl ((he.phaseOk hp).armed hne) hp (sound_of_coherent hc)
  have hu := tickArm_outcome c d hp
  obtain ⟨q, hq, hlt⟩ := hu.lowers_ticksToIdle he hp hne
  exact ⟨_, q, hexec, exec_keeps_coherence hc hexec, hu.frame.fault.trans hl, hq, hlt⟩

theorem ticks_reach_idle {cds : List (Bool × Bool)} {s : State} {p : ProtocolState} (hc : Coherent s) (hl : Live s)
    (hp : InPhase s p) (hlen : ticksToIdle s p ≤ cds.length) :
    ∃ n t, n ≤ ticksToIdle s p ∧ execAll (ticks (cds.take n)) s = .next t ∧ InPhase t .idle := by
  induction cds generalizing s p with
  | nil =>
    obtain rfl := eq_idle_of_ticksToIdle_eq_zero (Nat.le_zero.mp hlen)
    exact ⟨0, s, Nat.zero_le _, rfl, hp⟩
  | cons cd cds ih =>
    by_cases hidle : p = .idle
    · exact ⟨0, s, Nat.zero_le _, rfl, hidle ▸ hp⟩
    · obtain ⟨u, q, hexec, hcu, hlu, hq, hlt⟩ := exec_tick_lowers_ticksToIdle cd.1 cd.2 hc hl hp hidle
      rw [List.length_cons] at hlen
      obtain ⟨n, t, hn, hrun, ht⟩ := ih hcu hlu hq (by omega)
      exact ⟨n + 1, t, by omega, (execAll_cons hexec _).trans hrun, ht⟩

/-- Settles O59: the bound on the ticks before Idle is at most `2 ^ CNT_W + 3`. -/
theorem ticksAloneReachIdle : Obligations.TicksAloneReachIdle := by
  intro s cds hc hl _ hlen
  obtain ⟨hlegal, he, -⟩ := coherent_iff.mp hc
  have ⟨_, _, p, hp, _⟩ := he
  have hbound : ticksToIdle s p ≤ 2 ^ s.params.cntW + 3 := ticksToIdle_le hlegal he
  obtain ⟨n, t, hn, hrun, ht⟩ := ticks_reach_idle hc hl hp (hbound.trans hlen)
  exact ⟨n, t, hn.trans hbound, hrun, ht⟩

end Sys2Proof.Machine

/-! Scope: the host commands (42_host_api.md): INIT (O33), RXON and RXOFF (O34), BUSY and AVAIL (O35), GETB (O36) and
SEND (O37). In a sound state of a ready host each runs its body; what a blocked host is answered is O13
(`blockedHostIsRefused`), which every proof below cites. -/

namespace Sys2Proof.Machine

open Sys2Proof.Claims

/-! ## INIT, RXON and RXOFF (42_host_api.md R160 to R162) -/

/-- Settles O33. -/
theorem initEffect : Obligations.InitEffect :=
  fun _ hl => ⟨fun ⟨hr, hs⟩ => hostCommand_of_ready hl hr hs _, blockedHostIsRefused _ _ rfl hl⟩

/-- Settles O34. -/
theorem receptionOnAndOff : Obligations.ReceptionOnAndOff := by
  intro s hl
  refine ⟨fun ⟨hr, hs⟩ => ⟨?rxon, ?rxoff⟩,
    fun hr => ⟨blockedHostIsRefused _ _ rfl hl hr, blockedHostIsRefused _ _ rfl hl hr⟩⟩
  case rxon => exact hostCommand_of_ready hl hr hs _
  case rxoff => exact hostCommand_of_ready hl hr hs (.next (disableReception s))

/-! ## BUSY and AVAIL (42_host_api.md R165, R168) -/

theorem busyFlag_eq_decide (s : State) : busyFlag s = decide (s.state ≠ 0) := decide_not.symm

theorem availableFlag_eq_decide (s : State) : availableFlag s = decide (s.head ≠ s.tail) := decide_not.symm

theorem exec_busy {s : State} (h : AcceptsCommand s) :
    exec .busy s = .next { s with result := .bit (busyFlag s) } := by
  obtain ⟨hl, hr, hs⟩ := h
  exact hostCommand_of_ready hl hr hs _

/-- Settles O35: each query returns its flag, here spelt as the comparison it makes. -/
theorem queriesReturnTheirFlag : Obligations.QueriesReturnTheirFlag := by
  intro s hl
  rw [← busyFlag_eq_decide, ← availableFlag_eq_decide]
  exact ⟨fun ⟨hr, hs⟩ => ⟨exec_busy ⟨hl, hr, hs⟩, exec_avail ⟨hl, hr, hs⟩⟩,
    fun hr => ⟨blockedHostIsRefused _ _ rfl hl hr, blockedHostIsRefused _ _ rfl hl hr⟩⟩

/-! ## GETB (42_host_api.md R169) -/

theorem exec_getb_of_empty {s : State} (h : AcceptsCommand s) (he : s.head = s.tail) :
    exec .getb s = .next (record .emptyPop s) := by
  obtain ⟨hl, hr, hs⟩ := h
  calc exec .getb s
    _ = if availableFlag s then popByte s else .next (record .emptyPop s) := hostCommand_of_ready hl hr hs _
    _ = .next (record .emptyPop s) := if_neg (mt availableFlag_iff.mp (not_not_intro he))

/-- Settles O36: the byte returned is that of slot TAIL, which is the byte last written there if there is one. -/
theorem getbPopsTheOldestByte : Obligations.GetbPopsTheOldestByte := by
  intro s hl
  refine ⟨blockedHostIsRefused _ _ rfl hl, fun ⟨hr, hs⟩ => exec_getb_of_empty ⟨hl, hr, hs⟩, fun ⟨hr, hs⟩ hne hc => ?_⟩
  exact ⟨slotByte s.rxbuf s.tail, exec_getb_of_unread ⟨hl, hr, hs⟩ hne hc, fun _ => slotByte_of_read⟩

/-! ## SEND (42_host_api.md R166) -/

theorem exec_send_in_idle {b : Byte} {s : State} (h : AcceptsCommand s) (hp : InPhase s .idle) :
    exec (.send b) s = .next { startSend b s with hostPhase := hostWaitDone } := by
  obtain ⟨hl, hr, hs⟩ := h
  exact (hostCommand_of_ready hl hr hs _).trans (congrArg _ (if_pos hp))

theorem exec_send_outside_idle {b : Byte} {s : State} (h : AcceptsCommand s) (hp : ¬ InPhase s .idle) :
    exec (.send b) s = .next { s with hostByte := b, hostPhase := hostWaitStart } := by
  obtain ⟨hl, hr, hs⟩ := h
  exact (hostCommand_of_ready hl hr hs _).trans (congrArg _ (if_neg hp))

/-- Settles O37: the check for Idle decides between the start and the wait. -/
theorem sendStartsOrWaits : Obligations.SendStartsOrWaits := by
  intro s b hl
  refine ⟨blockedHostIsRefused _ _ rfl hl, fun ⟨hr, hs, hp⟩ => ?start, fun ⟨hr, hs, hp⟩ => ?wait⟩
  case start => exact exec_send_in_idle ⟨hl, hr, hs⟩ hp
  case wait => exact exec_send_outside_idle ⟨hl, hr, hs⟩ hp

end Sys2Proof.Machine

/-! Scope: protocol errors (60_exceptions.md): what enters Error (O40), what leaves it (O41), and the race of the
acknowledgement edge with the last bark tick (O44). -/

namespace Sys2Proof.Machine

open Sys2Proof.Claims

/-! ## The block is in one protocol state (10_state.md R21) -/

theorem phase_unique {s : State} {p q : ProtocolState} (hp : InPhase s p) (hq : InPhase s q) : p = q :=
  code_injective (hp.symm.trans hq)

/-! ## What is detected (60_exceptions.md R200) -/

theorem detectedError_of_host {i : Instr} {s : State} (hi : agentOf i = .host) : detectedError i s = none := by
  cases i with
  | edge | tick => cases hi
  | _ => cases h : s.soundPhase <;> simp [detectedError, h]

theorem detectedError_of_unsound {i : Instr} {s : State} (hs : ¬ Sound s) : detectedError i s = none := by
  simp [detectedError, soundPhase_eq_none.mpr hs]

theorem detectedError_of_lost_edge {d : Bool} {s : State} (he : s.edgeEn = false) :
    detectedError (.edge d) s = none := by
  cases h : s.soundPhase <;> simp [detectedError, h, he]

theorem detectedError_of_disarmed_tick {c d : Bool} {s : State} (ht : s.timerEn = false) :
    detectedError (.tick c d) s = none := by
  cases h : s.soundPhase <;> simp [detectedError, h, ht]

theorem detectedError_edge {d : Bool} {s : State} {p : ProtocolState} (he : s.edgeEn = true) (hs : Sound s)
    (hp : InPhase s p) : detectedError (.edge d) s = edgeError? p d s := by
  simp [detectedError, soundPhase_eq_some.mpr ⟨hp, hs⟩, he]

theorem detectedError_tick {c d : Bool} {s : State} {p : ProtocolState} (ht : s.timerEn = true) (hs : Sound s)
    (hp : InPhase s p) : detectedError (.tick c d) s = tickError? p c d s := by
  simp [detectedError, soundPhase_eq_some.mpr ⟨hp, hs⟩, ht]

/-- The parity bit expected is the one that brings the accumulator to 1 (40_edge_engine.md R103). -/
theorem parityBit_eq_iff {acc d : Bool} : parityBit acc = d ↔ parityStep acc d = true := by
  cases acc <;> cases d <;> decide

theorem edgeError?_receivingParity {d : Bool} {s : State} :
    edgeError? .receivingParity d s = if parityStep s.parity d = true then none else some .parity := by
  simp only [← parityBit_eq_iff]
  rfl

theorem tickError?_of_watched {p : ProtocolState} {c d : Bool} {s : State} (hw : p.watched = true) :
    tickError? p c d s = if s.bark ≤ 1 then some .bark else none := by
  have hne : p ≠ .awaitingIdle := by
    rintro rfl
    cases hw
  simp [tickError?, hw, hne]

theorem tickError?_awaitingIdle {c d : Bool} {s : State} :
    tickError? .awaitingIdle c d s = if ¬ (c = true ∧ d = true) ∧ s.idlecnt ≤ 1 then some .idle else none := by
  cases c <;> simp [tickError?, ProtocolState.watched]

/-! ## What a detection does (60_exceptions.md R202)

PARITY is not in the frame: an edge that detects a parity error writes it (log entry 13). -/

/-- The registers the entry into Error leaves unchanged (60_exceptions.md R202). -/
abbrev ErrorFrame (s t : State) : Prop :=
  t.clk = s.clk ∧ t.dat = s.dat ∧ t.rxbuf = s.rxbuf ∧ t.head = s.head ∧ t.tail = s.tail ∧ t.shift = s.shift ∧
    t.bitcnt = s.bitcnt ∧ t.pending = s.pending ∧ t.hostPhase = s.hostPhase ∧ t.edgeEn = s.edgeEn ∧
    t.recPhase = s.recPhase

/-- From `s` to `t` Error is entered exactly if an error kind `e` is detected, and then with the frame kept. -/
def EntersErrorOn (e : Option ErrorKind) (s t : State) : Prop :=
  (InPhase t .error ↔ e.isSome = true) ∧ (InPhase t .error → ErrorFrame s t)

theorem EntersErrorOn.detected {e : Option ErrorKind} {k : ErrorKind} {s t : State} (he : e = some k)
    (ht : InPhase t .error) (hf : ErrorFrame s t) : EntersErrorOn e s t :=
  ⟨iff_of_true ht (by simp [he]), fun _ => hf⟩

theorem EntersErrorOn.undetected {e : Option ErrorKind} {s t : State} (he : e = none) (ht : ¬ InPhase t .error) :
    EntersErrorOn e s t :=
  ⟨iff_of_false ht (by simp [he]), fun h => absurd h ht⟩

theorem EntersErrorOn.undetected_in {e : Option ErrorKind} {s t : State} (p : ProtocolState) (he : e = none)
    (hp : InPhase t p) (hne : p ≠ .error) : EntersErrorOn e s t :=
  .undetected he fun h => hne (phase_unique hp h)

/-- The recovery request after an edge touches neither STATE nor the frame (40_edge_engine.md R112). -/
theorem EntersErrorOn.requestRecovery {e : Option ErrorKind} {s t : State} (h : EntersErrorOn e s t) :
    EntersErrorOn e s (requestRecovery t) := by
  simpa [EntersErrorOn, ErrorFrame, InPhase] using h

/-- `enterError` after a write to PARITY, BARK or IDLECNT. -/
theorem EntersErrorOn.enterError {e : Option ErrorKind} {k : ErrorKind} {s : State} (he : e = some k) (parity : Bool)
    (bark idlecnt : Nat) :
    EntersErrorOn e s (enterError { s with parity := parity, bark := bark, idlecnt := idlecnt }) :=
  .detected he rfl ⟨rfl, rfl, rfl, rfl, rfl, rfl, rfl, rfl, rfl, rfl, rfl⟩

theorem EdgeOutcome.entersErrorOn {d : Bool} {s u : State} (hu : EdgeOutcome d s u) (he : s.edgeEn = true)
    (hs : Sound s) (hne : ¬ InPhase s .error) : EntersErrorOn (detectedError (.edge d) s) s u := by
  have detection {p : ProtocolState} (hp : InPhase s p) := detectedError_edge (d := d) he hs hp
  cases hu with
  | badStart hp hd | badStop hp hd | noAck hp hd =>
    subst hd
    exact .enterError (detection hp) _ _ _
  | badParity hp hd =>
    exact .enterError (k := .parity) (by simp [detection hp, edgeError?_receivingParity, hd]) _ _ _
  | startBit hp hd =>
    subst hd
    exact .undetected_in .receivingData (detection hp) rfl (by decide)
  | goodParity hp hd =>
    exact .undetected_in .receivingStop (by simp [detection hp, edgeError?_receivingParity, hd]) rfl (by decide)
  | goodStop hp hd =>
    subst hd
    exact .undetected_in .idle (detection hp) rfl (by decide)
  | acknowledged hp hd =>
    subst hd
    exact .undetected_in .awaitingIdle (detection hp) rfl (by decide)
  | receivedBit hp | transmittedBit hp => exact .undetected (detection hp) hne
  | receivedLastBit hp => exact .undetected_in .receivingParity (detection hp) rfl (by decide)
  | transmittedLastBit hp => exact .undetected_in .transmittingParity (detection hp) rfl (by decide)
  | transmittedParity hp => exact .undetected_in .transmittingStop (detection hp) rfl (by decide)
  | transmittedStop hp => exact .undetected_in .awaitingAck (detection hp) rfl (by decide)
  | ignored hp =>
    obtain hp | hp | hp := hp
    · exact .undetected (detection hp) hne
    · exact .undetected (detection hp) hne
    · exact absurd hp hne

theorem TickOutcome.entersErrorOn {c d : Bool} {s u : State} (hu : TickOutcome c d s u) (ht : s.timerEn = true)
    (hs : Sound s) (hne : ¬ InPhase s .error) : EntersErrorOn (detectedError (.tick c d) s) s u := by
  have detection {p : ProtocolState} (hp : InPhase s p) := detectedError_tick (c := c) (d := d) ht hs hp
  cases hu with
  | barked hw hb =>
    obtain ⟨p, hw, hp⟩ := inWatched_iff.mp hw
    exact .enterError (k := .bark) (by rw [detection hp, tickError?_of_watched hw, if_pos hb]) _ _ _
  | barkDown hw hb =>
    obtain ⟨p, hw, hp⟩ := inWatched_iff.mp hw
    exact .undetected (by rw [detection hp, tickError?_of_watched hw, if_neg (by omega)]) hne
  | idleTimeout hp hcd hi =>
    exact .enterError (k := .idle) (by rw [detection hp, tickError?_awaitingIdle, if_pos ⟨hcd, hi⟩]) _ _ _
  | idleDown hp _ hi =>
    exact .undetected (by rw [detection hp, tickError?_awaitingIdle, if_neg (by omega)]) hne
  | busIdle hp hcd =>
    exact .undetected_in .idle (by rw [detection hp, tickError?_awaitingIdle, if_neg fun ⟨hn, _⟩ => hn hcd]) rfl
      (by decide)
  | stale hp => exact .undetected (detection hp) hne
  | handshake hp => exact .undetected_in .transmittingData (detection hp) rfl (by decide)
  | recoveryStart hp | recoveryEnd hp => exact absurd hp hne

theorem ExecOutcome.entersErrorOn {i : Instr} {s t : State} (ho : ExecOutcome s i t) (hne : ¬ InPhase s .error) :
    EntersErrorOn (detectedError i s) s t := by
  cases ho with
  | edge he hs hu => exact (hu.entersErrorOn he hs hne).requestRecovery
  | tick ht hs hu => exact hu.entersErrorOn ht hs hne
  | edgeLost he => exact .undetected (detectedError_of_lost_edge he) hne
  | tickDisarmed ht => exact .undetected (detectedError_of_disarmed_tick ht) hne
  | badState _ hs => exact .undetected (detectedError_of_unsound hs) hne
  | blocked ha => exact .undetected (detectedError_of_host ha) hne
  | init | rxon => exact .undetected_in .idle (detectedError_of_host rfl) rfl (by decide)
  | sendStart => exact .undetected_in .requestingSend (detectedError_of_host rfl) rfl (by decide)
  | rxoff | busy | avail | getbEmpty | getb | sendWait => exact .undetected (detectedError_of_host rfl) hne

/-- Settles O40: each outcome of a stimulus enters Error on the detection of its own cause, or on none. -/
theorem errorIsEnteredExactlyOnDetection : Obligations.ErrorIsEnteredExactlyOnDetection := by
  intro i s t _ hexec hne
  obtain ⟨-, ho⟩ := exec_outcome hexec
  exact ho.entersErrorOn hne

/-! ## Leaving Error (60_exceptions.md R203, R204) -/

theorem EdgeOutcome.stays_in_error {d : Bool} {s u : State} (hu : EdgeOutcome d s u) (he : InPhase s .error) :
    InPhase u .error := by
  cases hu with
  | ignored | receivedBit | transmittedBit => exact he
  | badStart | badParity | badStop | noAck => rfl
  | startBit hp | receivedLastBit hp | goodParity hp | goodStop hp | transmittedLastBit hp | transmittedParity hp
  | transmittedStop hp | acknowledged hp => cases phase_unique hp he

theorem TickOutcome.leaves_error {c d : Bool} {s u : State} (hu : TickOutcome c d s u) (he : InPhase s .error)
    (hleft : ¬ InPhase u .error) : InPhase u .idle ∧ s.recPhase = true := by
  cases hu with
  | recoveryEnd _ hr => exact ⟨rfl, hr⟩
  | stale | barkDown | idleDown | recoveryStart => exact absurd he hleft
  | barked | idleTimeout => exact absurd rfl hleft
  | handshake hp | busIdle hp => cases phase_unique hp he

/-- Settles O41: edges stay in Error, ticks leave it by the end of recovery, and SEND starts in Idle alone. -/
theorem errorIsLeftOnlyByRecoveryOrHost : Obligations.ErrorIsLeftOnlyByRecoveryOrHost := by
  intro i s t hexec he hleft
  obtain ⟨-, ho⟩ := exec_outcome hexec
  cases ho with
  | init => exact ⟨rfl, .inl rfl⟩
  | rxon => exact ⟨rfl, .inr (.inl rfl)⟩
  | tick _ _ hu =>
    obtain ⟨hidle, hr⟩ := hu.leaves_error he hleft
    exact ⟨hidle, .inr (.inr ⟨_, _, rfl, hr⟩)⟩
  | @edge _ u _ _ hu => exact absurd ((requestRecovery_state u).trans (hu.stays_in_error he)) hleft
  | sendStart _ _ hp => cases phase_unique hp he
  | _ => exact absurd he hleft

/-! ## The acknowledgement edge and the last bark tick (60_exceptions.md R207) -/

/-- Settles O44: the edge first acknowledges; the tick first enters Error, where the edge only requests recovery. -/
theorem eitherOrderOfAckAndBark : Obligations.EitherOrderOfAckAndBark := by
  intro s c d ha ht hb
  have ⟨hl, hen, hp⟩ := ha
  have hw : AcceptsWatchedTick s := ⟨hl, ht, inWatched_iff.mpr ⟨_, rfl, hp⟩, sound_of_phase hp rfl⟩
  have hbark := exec_tick_barks (c := c) (d := d) hw hb
  have hedge : exec (.edge false) (enterError { s with bark := 0 }) = _ := exec_edge_in_error ⟨hl, hen, rfl⟩
  exact ⟨⟨_, exec_ack ha, rfl⟩, _, _, hbark, rfl, hedge, rfl⟩

end Sys2Proof.Machine

/-! Scope: reset and hazards (70_reset_and_hazards.md): the power-on state (O11, O17, O18, O46), the clock line's order
against EDGE_EN (O42), and the liveness of SEND (O60). -/

namespace Sys2Proof.Machine

open Sys2Proof.Claims

/-! ## Power-on reset (70_reset_and_hazards.md R230, R231) -/

/-- Settles O11, by the step's equation for an empty agenda. -/
theorem blockWaitsForStimuli : Obligations.BlockWaitsForStimuli := fun _ ha hl => step_of_no_turn hl ha

/-- Settles O17, register by register. -/
theorem powerOnRegisters : Obligations.PowerOnRegisters := fun _ =>
  ⟨rfl, rfl, rfl, rfl, rfl, rfl, rfl, rfl, rfl, rfl, rfl, rfl, rfl, rfl, rfl, rfl, rfl, rfl, rfl, rfl, rfl⟩

/-- Settles O18: reception is off and the timer disarmed, so the edge is lost and the tick refused. -/
theorem resetMasksBothSources : Obligations.ResetMasksBothSources :=
  fun _ _ _ => ⟨execEdge_lost rfl rfl, execTick_disarmed rfl rfl⟩

/-- Settles O46. -/
theorem powerOnIsCoherent : Obligations.PowerOnIsCoherent := fun _ turns hc => powerOn_coherent hc turns

/-! ## The clock is pulled only with edges off (70_reset_and_hazards.md R242) -/

/-- The clock line driven low. -/
def pulled : Line := { dir := true, lvl := false }

theorem release_ne_pulled (l : Line) : l.release ≠ pulled := by simp [Line.release, pulled]

theorem EdgeOutcome.pulls_no_clock {d : Bool} {s u : State} (hu : EdgeOutcome d s u) (hs : s.clk ≠ pulled) :
    u.clk ≠ pulled := by
  cases hu with
  | transmittedStop => exact release_ne_pulled _
  | _ => exact hs

/-- Of the ticks only the one that starts recovery pulls the clock (41_timer_controller.md R136). -/
theorem TickOutcome.edges_off_of_pull {c d : Bool} {s u : State} (hu : TickOutcome c d s u) (hs : s.clk ≠ pulled)
    (ht : u.clk = pulled) : u.edgeEn = false := by
  cases hu with
  | recoveryStart => rfl
  | handshake | recoveryEnd => exact absurd ht (release_ne_pulled _)
  | _ => exact absurd ht hs

theorem ExecOutcome.edges_off_of_pull {i : Instr} {s t : State} (ho : ExecOutcome s i t) (hs : s.clk ≠ pulled)
    (ht : t.clk = pulled) : t.edgeEn = false := by
  cases ho with
  | rxoff | sendStart => rfl
  | tick _ _ hu => exact hu.edges_off_of_pull hs ht
  | edge _ _ hu => exact absurd ((requestRecovery_clk _).symm.trans ht) (hu.pulls_no_clock hs)
  | init | rxon => exact absurd ht (release_ne_pulled _)
  | _ => exact absurd ht hs

theorem hostInternal_edges_off_of_pull {s : State} (hs : s.clk ≠ pulled) (ht : (hostInternal s).clk = pulled) :
    (hostInternal s).edgeEn = false := by
  obtain ⟨-, -, h⟩ | ⟨-, -, h⟩ | ⟨-, h⟩ := hostInternal_cases s
  · rw [h]
    rfl
  · exact absurd ((congrArg State.clk h).symm.trans ht) hs
  · exact absurd ((congrArg State.clk h).symm.trans ht) hs

/-- Settles O42: RXOFF, the start of a send and the start of recovery pull the clock, and each disables edges. -/
theorem clockIsPulledOnlyWithEdgesOff : Obligations.ClockIsPulledOnlyWithEdgesOff := by
  intro s t hstep ht hs
  obtain ⟨-, ⟨-, rfl⟩ | ⟨rest, -, rfl⟩ | ⟨w, rest, e, -, -, rfl⟩ | ⟨w, rest, i, -, -, hexec⟩⟩ := step_next hstep
  · exact absurd ht hs
  · exact hostInternal_edges_off_of_pull (s := takeHostStep s rest) hs ht
  · exact absurd ht hs
  · obtain ⟨-, ho⟩ := exec_outcome hexec
    exact ho.edges_off_of_pull hs ht

/-! ## With the host blocked every turn outside Idle keeps or lowers the distance to Idle

The distance counts the edges an ongoing frame has left, and next to them the ticks that lead to Idle if no edge comes
(`ticksToIdle`). An edge of the frame may reload BARK but lowers the first count; a tick lowers the second and does not
raise the first. -/

/-- The edges of the ongoing frame still to come (40_edge_engine.md R113, R114); before a handshake ends, one more than
the eleven of a transmit frame. -/
def edgesLeft (s : State) : ProtocolState → Nat
  | .idle | .awaitingIdle | .error => 0
  | .receivingData => s.bitcnt.toNat + 2
  | .receivingParity => 2
  | .receivingStop => 1
  | .requestingSend => 12
  | .transmittingData => s.bitcnt.toNat + 3
  | .transmittingParity => 3
  | .transmittingStop => 2
  | .awaitingAck => 1

/-- How far the block is from Idle in the protocol state `p`: the edges left count before the ticks. -/
def distanceToIdle (s : State) (p : ProtocolState) : Nat ×ₗ Nat := toLex (edgesLeft s p, ticksToIdle s p)

theorem distanceToIdle_lt_of_fewer_edges {s t : State} {p q : ProtocolState} (h : edgesLeft t q < edgesLeft s p) :
    distanceToIdle t q < distanceToIdle s p :=
  Prod.Lex.toLex_lt_toLex.mpr (.inl h)

theorem distanceToIdle_lt_of_fewer_ticks {s t : State} {p q : ProtocolState} (he : edgesLeft t q ≤ edgesLeft s p)
    (ht : ticksToIdle t q < ticksToIdle s p) : distanceToIdle t q < distanceToIdle s p :=
  Prod.Lex.toLex_lt_toLex'.mpr ⟨he, fun _ => ht⟩

theorem distanceToIdle_requestRecovery (s : State) (p : ProtocolState) :
    distanceToIdle (requestRecovery s) p = distanceToIdle s p := by
  cases p <;> simp [distanceToIdle, edgesLeft, ticksToIdle]

theorem toNat_sub_one_lt {n : BitVec 4} (h : 2 ≤ n.toNat) : (n - 1).toNat < n.toNat := by
  rw [toNat_sub_one (by omega)]
  omega

/-- Outside Idle an edge is one of the ongoing frame, which it advances, or changes nothing. -/
theorem EdgeOutcome.advances_frame {d : Bool} {s u : State} {p : ProtocolState} (hu : EdgeOutcome d s u)
    (hp : InPhase s p) (hne : p ≠ .idle) : u = s ∨ ∃ q, InPhase u q ∧ edgesLeft u q < edgesLeft s p := by
  cases hu with
  | ignored => exact .inl rfl
  | startBit hq | badStart hq => exact absurd (phase_unique hp hq) hne
  | receivedBit hq hb =>
    obtain rfl := phase_unique hp hq
    exact .inr ⟨.receivingData, hp, Nat.add_lt_add_right (toNat_sub_one_lt hb.1) 2⟩
  | transmittedBit hq hb =>
    obtain rfl := phase_unique hp hq
    exact .inr ⟨.transmittingData, hp, Nat.add_lt_add_right (toNat_sub_one_lt hb.1) 3⟩
  | receivedLastBit hq hb =>
    obtain rfl := phase_unique hp hq
    exact .inr ⟨.receivingParity, rfl, by simp [edgesLeft, hb]⟩
  | transmittedLastBit hq hb =>
    obtain rfl := phase_unique hp hq
    exact .inr ⟨.transmittingParity, rfl, by simp [edgesLeft, hb]⟩
  | goodParity hq =>
    obtain rfl := phase_unique hp hq
    exact .inr ⟨.receivingStop, rfl, by simp [edgesLeft]⟩
  | transmittedParity hq =>
    obtain rfl := phase_unique hp hq
    exact .inr ⟨.transmittingStop, rfl, by simp [edgesLeft]⟩
  | transmittedStop hq =>
    obtain rfl := phase_unique hp hq
    exact .inr ⟨.awaitingAck, rfl, by simp [edgesLeft]⟩
  | acknowledged hq =>
    obtain rfl := phase_unique hp hq
    exact .inr ⟨.awaitingIdle, rfl, by simp [edgesLeft]⟩
  | goodStop hq =>
    obtain rfl := phase_unique hp hq
    exact .inr ⟨.idle, rfl, by simp [edgesLeft]⟩
  | badParity hq | badStop hq | noAck hq =>
    obtain rfl := phase_unique hp hq
    exact .inr ⟨.error, rfl, by simp [edgesLeft]⟩

theorem EdgeOutcome.distanceToIdle_le {d : Bool} {s u : State} {p : ProtocolState} (hu : EdgeOutcome d s u)
    (hp : InPhase s p) (hne : p ≠ .idle) : ∃ q, InPhase u q ∧ distanceToIdle u q ≤ distanceToIdle s p := by
  obtain rfl | ⟨q, hq, hlt⟩ := hu.advances_frame hp hne
  · exact ⟨p, hp, le_rfl⟩
  · exact ⟨q, hq, (distanceToIdle_lt_of_fewer_edges hlt).le⟩

theorem TickOutcome.edgesLeft_le {c d : Bool} {s u : State} {p q : ProtocolState} (hu : TickOutcome c d s u)
    (hp : InPhase s p) (hq : InPhase u q) : edgesLeft u q ≤ edgesLeft s p := by
  cases hu with
  | stale | barkDown | idleDown | recoveryStart =>
    obtain rfl : p = q := phase_unique hp hq
    exact le_rfl
  | handshake hs =>
    obtain rfl := phase_unique hp hs
    obtain rfl : q = .transmittingData := phase_unique hq rfl
    exact (by decide : (8#4).toNat + 3 ≤ 12)
  | busIdle | recoveryEnd =>
    obtain rfl : q = .idle := phase_unique hq rfl
    exact Nat.zero_le _
  | barked | idleTimeout =>
    obtain rfl : q = .error := phase_unique hq rfl
    exact Nat.zero_le _

theorem TickOutcome.distanceToIdle_lt {c d : Bool} {s u : State} {p : ProtocolState} (hu : TickOutcome c d s u)
    (h : EngineOk s) (hp : InPhase s p) (hne : p ≠ .idle) :
    ∃ q, InPhase u q ∧ distanceToIdle u q < distanceToIdle s p := by
  obtain ⟨q, hq, hlt⟩ := hu.lowers_ticksToIdle h hp hne
  exact ⟨q, hq, distanceToIdle_lt_of_fewer_ticks (hu.edgesLeft_le hp hq) hlt⟩

/-- With the host blocked and no fault recorded, only an edge or a tick can have run. -/
theorem ExecOutcome.distanceToIdle_le {i : Instr} {s t : State} {p : ProtocolState} (ho : ExecOutcome s i t)
    (hl : Live t) (hr : ¬ HostReady s) (h : EngineOk s) (hp : InPhase s p) (hne : p ≠ .idle) :
    ∃ q, InPhase t q ∧ distanceToIdle t q ≤ distanceToIdle s p ∧
      (agentOf i = .timer → distanceToIdle t q < distanceToIdle s p) := by
  cases ho with
  | blocked | tickDisarmed | badState | getbEmpty => cases hl
  | edgeLost => exact ⟨p, hp, le_rfl, nofun⟩
  | @edge _ u _ _ hu =>
    obtain ⟨q, hq, hle⟩ := hu.distanceToIdle_le hp hne
    exact ⟨q, (requestRecovery_state u).trans hq, (distanceToIdle_requestRecovery u q).trans_le hle, nofun⟩
  | tick _ _ hu =>
    obtain ⟨q, hq, hlt⟩ := hu.distanceToIdle_lt h hp hne
    exact ⟨q, hq, hlt.le, fun _ => hlt⟩
  | _ => contradiction

theorem step_distanceToIdle_le {s t : State} {p : ProtocolState} (hstep : step s = .next t) (hl : Live t)
    (hr : ¬ HostReady s) (h : EngineOk s) (hp : InPhase s p) (hne : p ≠ .idle) :
    ∃ q, InPhase t q ∧ distanceToIdle t q ≤ distanceToIdle s p ∧
      (∀ turn rest, s.agenda = turn :: rest → turn.isTick → distanceToIdle t q < distanceToIdle s p) := by
  obtain ⟨-, ⟨ha, rfl⟩ | ⟨rest, ha, rfl⟩ | ⟨w, rest, e, ha, -, rfl⟩ | ⟨w, rest, i, ha, hdec, hexec⟩⟩ :=
    step_next hstep
  · exact ⟨p, hp, le_rfl, fun _ _ ha' => by simp [ha] at ha'⟩
  · have hidle : ¬ InPhase (takeHostStep s rest) .idle := fun hidle => hne (phase_unique hp hidle)
    rw [hostInternal_held (.inl hidle)]
    refine ⟨p, hp, le_rfl, ?_⟩
    rintro turn rest' ha' ⟨c, d, rfl⟩
    simp [ha] at ha'
  · cases hl
  · obtain ⟨-, ho⟩ := exec_outcome hexec
    obtain ⟨q, hq, hle, hlt⟩ := ho.distanceToIdle_le (s := takeStimulus s rest) hl hr h hp hne
    refine ⟨q, hq, hle, ?_⟩
    rintro turn rest' ha' ⟨c, d, rfl⟩
    obtain ⟨rfl, -⟩ : w = encode (.tick c d) ∧ rest = rest' := by simpa [ha] using ha'
    obtain rfl : Instr.tick c d = i := by simpa using hdec
    exact hlt rfl

/-! ## Under fairness every SEND returns (70_reset_and_hazards.md R248) -/

theorem IsRun.live {st : Nat → State} {turn : Nat → Turn} (hrun : IsRun st turn) (n : Nat) : Live (st n) :=
  (step_next (hrun n)).1

theorem IsRun.coherent {st : Nat → State} {turn : Nat → Turn} (hrun : IsRun st turn) (hc : Coherent (st 0))
    (n : Nat) : Coherent (st n) := by
  induction n with
  | zero => exact hc
  | succ n ih =>
    have h : Coherent { st n with agenda := [turn n] } := ih
    exact stepKeepsCoherence _ _ h (hrun n)

/-- A run from a coherent state in which the host is blocked from the instant `n` on. -/
structure BlockedRun (st : Nat → State) (turn : Nat → Turn) (n : Nat) : Prop where
  start : Coherent (st 0)
  run : IsRun st turn
  blocked : ∀ m, n ≤ m → ¬ HostReady (st m)

section
variable {st : Nat → State} {turn : Nat → Turn} {n k : Nat}

theorem BlockedRun.engineOk (h : BlockedRun st turn n) (k : Nat) : EngineOk (st k) :=
  (coherent_iff.mp (h.run.coherent h.start k)).2.1

theorem BlockedRun.distanceToIdle_le (h : BlockedRun st turn n) (hk : n ≤ k) {p : ProtocolState}
    (hp : InPhase (st k) p) (hne : p ≠ .idle) :
    ∃ q, InPhase (st (k + 1)) q ∧ distanceToIdle (st (k + 1)) q ≤ distanceToIdle (st k) p ∧
      ((turn k).isTick → distanceToIdle (st (k + 1)) q < distanceToIdle (st k) p) := by
  obtain ⟨q, hq, hle, hlt⟩ :=
    step_distanceToIdle_le (h.run k) (h.run.live (k + 1)) (h.blocked k hk) (h.engineOk k) hp hne
  exact ⟨q, hq, hle, hlt _ _ rfl⟩

/-- Outside Idle the timer stays armed, so ticks keep coming and lower the distance, which no other turn raises. -/
theorem BlockedRun.exists_idle (h : BlockedRun st turn n) (hticks : TickFair st turn) (hk : n ≤ k) :
    ∃ m, k ≤ m ∧ InPhase (st m) .idle := by
  obtain ⟨-, -, p, hp, -⟩ := h.engineOk k
  induction hd : distanceToIdle (st k) p using WellFoundedLT.induction generalizing k p with
  | ind distance ih =>
    subst hd
    by_contra! hnever
    have outside {m : Nat} {q : ProtocolState} (hm : k ≤ m) (hq : InPhase (st m) q) : q ≠ .idle := by
      rintro rfl
      exact hnever m hm hq
    have armed (m : Nat) (hm : k ≤ m) : (st m).timerEn = true := by
      obtain ⟨-, -, q, hq, hphase⟩ := h.engineOk m
      exact hphase.armed (outside hm hq)
    have descends (m : Nat) (hm : k ≤ m) :
        ∃ q, InPhase (st m) q ∧ distanceToIdle (st m) q ≤ distanceToIdle (st k) p := by
      induction m, hm using Nat.le_induction with
      | base => exact ⟨p, hp, le_rfl⟩
      | succ m hm ihm =>
        obtain ⟨q, hq, hle⟩ := ihm
        obtain ⟨r, hr, hle', -⟩ := h.distanceToIdle_le (hk.trans hm) hq (outside hm hq)
        exact ⟨r, hr, hle'.trans hle⟩
    obtain ⟨m, hm, htick⟩ := hticks k armed
    obtain ⟨q, hq, hle⟩ := descends m hm
    obtain ⟨r, hr, -, hlt⟩ := h.distanceToIdle_le (hk.trans hm) hq (outside hm hq)
    obtain ⟨j, hj, hidle⟩ := ih _ ((hlt htick).trans_le hle) (by omega) r hr rfl
    exact hnever j (by omega) hidle

/-- HOST_PHASE is a code other than READY. -/
theorem BlockedRun.waits (h : BlockedRun st turn n) (hk : n ≤ k) :
    (st k).hostPhase = hostWaitStart ∨ (st k).hostPhase = hostWaitDone := by
  obtain ⟨⟨-, -, -, -, hcode⟩, -⟩ := h.engineOk k
  have codes : ∀ v : BitVec 2, v ≠ hostReady → v ≠ 3 → v = hostWaitStart ∨ v = hostWaitDone := by decide
  exact codes _ (h.blocked k hk) hcode

theorem BlockedRun.enabled_of_idle (h : BlockedRun st turn n) (hk : n ≤ k) (hidle : InPhase (st k) .idle) :
    hostStepEnabled (st k) = true := by
  have hl : (st k).fault = none := h.run.live k
  have hs : (st k).state = ProtocolState.idle.code := hidle
  obtain hw | hw := h.waits hk <;> simp [hostStepEnabled, hstartEnabled, hretEnabled, hl, hs, hw]

/-- The host step that fairness brings can only be HSTART: HRET would unblock the host. -/
theorem BlockedRun.exists_hstart (h : BlockedRun st turn n) (hticks : TickFair st turn)
    (hhost : HostStronglyFair st turn) (hk : n ≤ k) :
    ∃ m, k ≤ m ∧ (st m).hostPhase = hostWaitStart ∧ (st (m + 1)).hostPhase = hostWaitDone := by
  obtain ⟨m, hm, hturn, hen⟩ := hhost k fun j hj => by
    obtain ⟨i, hi, hidle⟩ := h.exists_idle hticks (hk.trans hj)
    exact ⟨i, hi, h.enabled_of_idle (by omega) hidle⟩
  have hstep : st (m + 1) = hostInternal (takeHostStep { st m with agenda := [turn m] } []) := by
    have hs := step_of_hostStep (s := { st m with agenda := [turn m] }) (rest := []) (h.run.live m) (by simp [hturn])
    simpa using (h.run m).symm.trans hs
  obtain ⟨hw, -, heq⟩ | ⟨-, -, heq⟩ | ⟨hheld, -⟩ :=
    hostInternal_cases (takeHostStep { st m with agenda := [turn m] } [])
  · exact ⟨m, hm, hw, by rw [hstep, heq]⟩
  · exact absurd (by rw [hstep, heq] : HostReady (st (m + 1))) (h.blocked _ (by omega))
  · obtain ⟨-, henabled⟩ : (st m).fault.isNone = true ∧ (hstartEnabled (st m) = true ∨ hretEnabled (st m) = true) := by
      simpa [hostStepEnabled] using hen
    exact absurd henabled hheld

/-- Once a send has started, a host that does not return stays in WAIT_DONE (42_host_api.md R170). -/
theorem BlockedRun.stays_started (h : BlockedRun st turn n) (hk : n ≤ k) (hdone : (st k).hostPhase = hostWaitDone)
    (m : Nat) (hm : k ≤ m) : (st m).hostPhase = hostWaitDone := by
  induction m, hm using Nat.le_induction with
  | base => exact hdone
  | succ m hm ih =>
    obtain ⟨-, hphase | ⟨hready, -⟩⟩ := (blockedSendKeepsItsByte _ _ (h.run m)).1 ih
    · exact hphase
    · exact absurd hready (h.blocked _ (by omega))

/-- After the first HSTART there is no second, so the fair host step that comes then returns. -/
theorem not_blockedRun_of_fair (hticks : TickFair st turn) (hhost : HostStronglyFair st turn) :
    ¬ BlockedRun st turn n := by
  intro h
  obtain ⟨m, hm, -, hdone⟩ := h.exists_hstart hticks hhost le_rfl
  obtain ⟨j, hj, hwait, -⟩ := h.exists_hstart hticks hhost (k := m + 1) (by omega)
  exact absurd (hwait.symm.trans (h.stays_started (by omega) hdone j hj)) (by decide)

end

/-- Settles O60: a run in which HOST_PHASE is READY no more from some instant on is not fair. -/
theorem everySendReturns : Obligations.EverySendReturns := by
  intro st turn hc hrun hticks hhost n
  by_contra! hblocked
  exact not_blockedRun_of_fair hticks hhost ⟨hc, hrun, hblocked⟩

end Sys2Proof.Machine
